-- ==== Sys2Proof/Word.lean ====
section
/-! DEFINITION. The value types of the block: the 32-bit pc operand, the 37-bit command word, the 2-bit cell controls,
outcomes, modes and the INIT configuration record (spec/00_scope.md R6, R7, R11, R13; spec/30_encoding.md R86, R91, R92). -/
namespace Sys2Proof

/-- A `pc` operand: "unsigned 32-bit address" (R22). It is never shifted, incremented or stored by the block. -/
abbrev Pc := BitVec 32

/-- A command word `CW` (R86). -/
abbrev CmdWord := BitVec 37

/-- A 2-bit cell control input, for a counter cell (R91) or for a history register cell (R92). -/
abbrev CellCtl := BitVec 2

/-- A byte of the container in which the host hands a word over (notes/assumptions/7.md); the block itself has no bytes (R65). -/
abbrev Byte := BitVec 8

/-- `Outcome = {NotTaken, Taken}`: a real branch outcome or a prediction (R11). -/
inductive Outcome where
  | notTaken
  | taken
deriving DecidableEq, Repr, Inhabited

/-- `Mode = {Static, Gshare, Tournament, Custom}`: the predictor mode (R11, R24). -/
inductive Mode where
  | static
  | gshare
  | tournament
  | custom
deriving DecidableEq, Repr, Inhabited

/-- `CtrState = {SN, WN, WT, ST}`, "ordered as a 4-point scale": what a saturating counter cell holds (R11, R100). A cell
outside the four states cannot be written down (R106). -/
inductive CtrState where
  | sn
  | wn
  | wt
  | st
deriving DecidableEq, Repr, Inhabited

/-- The configuration record `cfg` of INIT (R6, R25). The four bit-width fields are 6-bit quantities held as natural
numbers, as R25 allows; `tageHistLen` lists `TAGE_HIST_LEN[0 .. TAGE_COMP_NUM-1]`. -/
structure CfgRecord where
  ghBits : Nat
  tourHBits : Nat
  tourPcBits : Nat
  tourLHistory : Nat
  tageCompNum : Nat
  tageHistLen : List Nat
  tageCompEntry : Nat
deriving DecidableEq, Repr, Inhabited

/-- `TAGE_HIST_LEN[c]`; an element that was not given is 0, as every configuration field that is not written is (R93). -/
def CfgRecord.histLen (cfg : CfgRecord) (c : Nat) : Nat := cfg.tageHistLen.getD c 0

end Sys2Proof
end

