-- ==== Sys2Proof/Syntax.lean ====
section
/-! DEFINITION. The instructions: the four commands and the six micro-operations of the two primitive cells, one
constructor per row of spec/opcode_table.json; and the frames in which they are presented to the block's ports
(spec/30_encoding.md R86 to R92; spec/70_reset_and_hazards.md R283). -/
namespace Sys2Proof

/-- One constructor per row of the opcode table. Fields that an instruction ignores (R89) are no operands of it. -/
inductive Instr where
  /-- INIT m, cfg (R212 to R215). The record is presented beside the word (R86). -/
  | init (m : Mode) (cfg : CfgRecord)
  /-- PREDICT pc (R216, R217). -/
  | predict (pc : Pc)
  /-- TRAIN pc, o (R217, R218). -/
  | train (pc : Pc) (o : Outcome)
  /-- CLEANUP (R222, R223). -/
  | cleanup
  /-- CTR.HOLD (R91, R107). -/
  | ctrHold
  /-- CTR.DEC (R91, R107). -/
  | ctrDec
  /-- CTR.INC (R91, R107). -/
  | ctrInc
  /-- HR.HOLD (R92, R121). -/
  | hrHold
  /-- HR.SHIFT0 (R92, R121). -/
  | hrShift0
  /-- HR.SHIFT1 (R92, R121). -/
  | hrShift1
deriving DecidableEq, Repr

/-- The `cfg_*` input ports: four 6-bit fields (R25, R283), and the TAGE counts and lengths, which are naturals. -/
structure CfgPorts where
  gh : BitVec 6
  th : BitVec 6
  pcb : BitVec 6
  lh : BitVec 6
  ncomp : Nat
  hlen : List Nat
  nent : Nat
deriving DecidableEq, Repr

/-- What is presented on one of the three control inputs in one cycle. The formats are those of the opcode table:
CW37, CTR2 and HR2. Each control input is wired to its own unit, so the format is no part of the word. -/
inductive Frame where
  /-- A command word on `cmd`, with the side record on `cfg_*` (R86, R283). -/
  | command (cw : CmdWord) (side : CfgPorts)
  /-- `{upd, up}` on the counter cell's control input (R91). -/
  | counter (ctl : CellCtl)
  /-- `{sh, din}` on the history register's control input (R92). -/
  | history (ctl : CellCtl)
deriving DecidableEq, Repr

/-- The three word formats of the opcode table. -/
inductive Port where
  | cw37
  | ctr2
  | hr2
deriving DecidableEq, Repr

/-- Why a string of bytes is not a word of the given format. -/
inductive DecodeError where
  /-- The container of that format has another number of bytes. -/
  | wrongByteCount (p : Port) (got : Nat)
  /-- A bit above the format's width is set: the block has no wire for it. -/
  | bitsAboveWord (p : Port)
deriving DecidableEq, Repr

end Sys2Proof
end

