-- ==== Sys2Proof/WellFormed.lean ====
section
/-! DEFINITION. Which instructions can be presented on the block's ports (spec/10_state.md R25: a 6-bit field holds
0 to 63, and `TAGE_HIST_LEN` has one element per component). A legal configuration (R214) is another question: an
illegal one is well formed and raises ConfigError. -/
namespace Sys2Proof

/-- The record fits the `cfg_*` ports (R25). -/
def CfgRecord.wellFormed (cfg : CfgRecord) : Bool :=
  decide (cfg.ghBits < 64) && decide (cfg.tourHBits < 64) && decide (cfg.tourPcBits < 64)
    && decide (cfg.tourLHistory < 64) && decide (cfg.tageHistLen.length = cfg.tageCompNum)

/-- The instruction can be presented to the block. -/
def Instr.wellFormed : Instr → Bool
  | .init _ cfg => cfg.wellFormed
  | .predict _ => true
  | .train _ _ => true
  | .cleanup => true
  | .ctrHold => true
  | .ctrDec => true
  | .ctrInc => true
  | .hrHold => true
  | .hrShift0 => true
  | .hrShift1 => true

end Sys2Proof
end

