-- ==== Sys2Proof/Decode.lean ====
section
/-! DEFINITION. The decoder, total on every frame (spec/30_encoding.md R86 to R92), the byte container it is given a
word in, and the encoder written from the same tables. Also the value encodings of outcomes and modes (R80, R82). -/
namespace Sys2Proof

/-! ### Value encodings -/

/-- R80: `NotTaken = 0`, `Taken = 1`. -/
def outcomeBit : Outcome → BitVec 1
  | .notTaken => 0#1
  | .taken => 1#1

/-- R80, read back. -/
def outcomeOfBit (b : BitVec 1) : Outcome := if b = 1#1 then .taken else .notTaken

/-- R82: `Static = 0b00`, `Gshare = 0b01`, `Tournament = 0b10`, `Custom = 0b11`. -/
def modeBits : Mode → BitVec 2
  | .static => 0b00#2
  | .gshare => 0b01#2
  | .tournament => 0b10#2
  | .custom => 0b11#2

/-- R82, read back: all four patterns are modes. -/
def modeOfBits (b : BitVec 2) : Mode :=
  if b = 0b00#2 then .static
  else if b = 0b01#2 then .gshare
  else if b = 0b10#2 then .tournament
  else .custom

/-! ### The fields of a command word (R86) -/

/-- `op = CW[1:0]`. -/
def opField (w : CmdWord) : BitVec 2 := w.extractLsb' 0 2

/-- `o = CW[2]`. -/
def outcomeField (w : CmdWord) : BitVec 1 := w.extractLsb' 2 1

/-- `m = CW[4:3]`. -/
def modeField (w : CmdWord) : BitVec 2 := w.extractLsb' 3 2

/-- `pc = CW[36:5]`, "used as is: no scaling, no shifting, no sign extension" (R88). -/
def pcField (w : CmdWord) : Pc := w.extractLsb' 5 32

/-- The record that the `cfg_*` ports carry: one history length per component, 0 where none is given (R25, R93). -/
def cfgOfPorts (p : CfgPorts) : CfgRecord where
  ghBits := p.gh.toNat
  tourHBits := p.th.toNat
  tourPcBits := p.pcb.toNat
  tourLHistory := p.lh.toNat
  tageCompNum := p.ncomp
  tageHistLen := (List.range p.ncomp).map fun c => p.hlen.getD c 0
  tageCompEntry := p.nent

/-! ### The decoder -/

/-- The opcode map of R87; fields that a command does not use are ignored (R89). -/
def decodeCommand (w : CmdWord) (side : CfgPorts) : Instr :=
  if opField w = 0b00#2 then .init (modeOfBits (modeField w)) (cfgOfPorts side)
  else if opField w = 0b01#2 then .predict (pcField w)
  else if opField w = 0b10#2 then .train (pcField w) (outcomeOfBit (outcomeField w))
  else .cleanup

/-- R91: `{upd, up}` = `0b0x` HOLD, `0b10` DEC, `0b11` INC. -/
def decodeCounter (c : CellCtl) : Instr :=
  if c = 0b10#2 then .ctrDec else if c = 0b11#2 then .ctrInc else .ctrHold

/-- R92: `{sh, din}` = `0b0x` HOLD, `0b10` SHIFT0, `0b11` SHIFT1. -/
def decodeHistory (c : CellCtl) : Instr :=
  if c = 0b10#2 then .hrShift0 else if c = 0b11#2 then .hrShift1 else .hrHold

/-- The decoder: every frame is exactly one instruction (R89). -/
def decode : Frame → Instr
  | .command w side => decodeCommand w side
  | .counter c => decodeCounter c
  | .history c => decodeHistory c

/-! ### The encoder -/

/-- A command word from its fields, laid out as R86 says. -/
def commandWord (pc : Pc) (m : BitVec 2) (o : BitVec 1) (op : BitVec 2) : CmdWord := pc ++ m ++ o ++ op

/-- The ports that carry a record (R25). -/
def portsOfCfg (cfg : CfgRecord) : CfgPorts where
  gh := BitVec.ofNat 6 cfg.ghBits
  th := BitVec.ofNat 6 cfg.tourHBits
  pcb := BitVec.ofNat 6 cfg.tourPcBits
  lh := BitVec.ofNat 6 cfg.tourLHistory
  ncomp := cfg.tageCompNum
  hlen := cfg.tageHistLen
  nent := cfg.tageCompEntry

/-- A side record with every field 0 ("a field not written is 0", R93), for the words that carry none. -/
def zeroPorts : CfgPorts := ⟨0#6, 0#6, 0#6, 0#6, 0, [], 0⟩

/-- The encoder; ignored fields are written 0, as in the examples of R95. -/
def encode : Instr → Frame
  | .init m cfg => .command (commandWord 0#32 (modeBits m) 0#1 0b00#2) (portsOfCfg cfg)
  | .predict pc => .command (commandWord pc 0#2 0#1 0b01#2) zeroPorts
  | .train pc o => .command (commandWord pc 0#2 (outcomeBit o) 0b10#2) zeroPorts
  | .cleanup => .command (commandWord 0#32 0#2 0#1 0b11#2) zeroPorts
  | .ctrHold => .counter 0b00#2
  | .ctrDec => .counter 0b10#2
  | .ctrInc => .counter 0b11#2
  | .hrHold => .history 0b00#2
  | .hrShift0 => .history 0b10#2
  | .hrShift1 => .history 0b11#2

/-! ### The opcode table as rows (R87, R91, R92) -/

/-- One row of the table: a word of that format is the row's when its bits under `mask` are `value`. -/
structure OpRow where
  port : Port
  value : Nat
  mask : Nat
deriving DecidableEq, Repr

/-- The row that each instruction stands in. -/
def Instr.row : Instr → OpRow
  | .init _ _ => ⟨.cw37, 0x0, 0x3⟩
  | .predict _ => ⟨.cw37, 0x1, 0x3⟩
  | .train _ _ => ⟨.cw37, 0x2, 0x3⟩
  | .cleanup => ⟨.cw37, 0x3, 0x3⟩
  | .ctrHold => ⟨.ctr2, 0x0, 0x2⟩
  | .ctrDec => ⟨.ctr2, 0x2, 0x3⟩
  | .ctrInc => ⟨.ctr2, 0x3, 0x3⟩
  | .hrHold => ⟨.hr2, 0x0, 0x2⟩
  | .hrShift0 => ⟨.hr2, 0x2, 0x3⟩
  | .hrShift1 => ⟨.hr2, 0x3, 0x3⟩

/-- The format of a frame. -/
def Frame.port : Frame → Port
  | .command _ _ => .cw37
  | .counter _ => .ctr2
  | .history _ => .hr2

/-- The bits of a frame's word as a number. -/
def Frame.bits : Frame → Nat
  | .command w _ => w.toNat
  | .counter c => c.toNat
  | .history c => c.toNat

/-- The frame's word is one of the row's words. -/
def Frame.inRow (f : Frame) (r : OpRow) : Bool :=
  decide (f.port = r.port) && decide (f.bits &&& r.mask = r.value)

/-! ### The byte container (notes/assumptions/7.md) -/

/-- The width of a word of the format (R86, R91, R92). -/
def Port.width : Port → Nat
  | .cw37 => 37
  | .ctr2 => 2
  | .hr2 => 2

/-- The number of whole bytes that hold a word of the format. -/
def Port.byteCount : Port → Nat
  | .cw37 => 5
  | .ctr2 => 1
  | .hr2 => 1

/-- The number that a string of bytes holds, the first byte least significant. -/
def natOfBytes : List Byte → Nat
  | [] => 0
  | b :: bs => b.toNat + 256 * natOfBytes bs

/-- `n` bytes holding the low bits of a number, the least significant first. -/
def bytesOfNat : Nat → Nat → List Byte
  | 0, _ => []
  | n + 1, w => BitVec.ofNat 8 w :: bytesOfNat n (w / 256)

/-- The frame of a word of the format, given as a number that fits it. -/
def frameOfNat (p : Port) (w : Nat) (side : CfgPorts) : Frame :=
  match p with
  | .cw37 => .command (BitVec.ofNat 37 w) side
  | .ctr2 => .counter (BitVec.ofNat 2 w)
  | .hr2 => .history (BitVec.ofNat 2 w)

/-- Take a word of the format out of its container: total on any bytes, rejecting by name. -/
def frameOfBytes (p : Port) (bs : List Byte) (side : CfgPorts) : Except DecodeError Frame :=
  if bs.length ≠ p.byteCount then .error (.wrongByteCount p bs.length)
  else if 2 ^ p.width ≤ natOfBytes bs then .error (.bitsAboveWord p)
  else .ok (frameOfNat p (natOfBytes bs) side)

/-- Decode a word handed over in bytes. -/
def decodeBytes (p : Port) (bs : List Byte) (side : CfgPorts) : Except DecodeError Instr :=
  match frameOfBytes p bs side with
  | .ok f => .ok (decode f)
  | .error e => .error e

/-! ### Table words (the host's numbering) -/

/-- The format of a table word of `nbits` bits: one byte holds a cell control, more hold a command. CTR2 and HR2 words
are the same two bits for two different inputs, and a bare word does not say which: it is read as CTR2
(notes/assumptions/8.md). -/
def tablePort (nbits : Nat) : Port := if nbits ≤ 8 then .ctr2 else .cw37

/-- The frame of a table word, with an all-zero side record; none where the bytes are no word of the format. -/
def tableFrame (nbits w : Nat) : Option Frame :=
  let p := tablePort nbits
  if 256 ^ p.byteCount ≤ w then none
  else
    match frameOfBytes p (bytesOfNat p.byteCount w) zeroPorts with
    | .ok f => some f
    | .error _ => none

/-- The instruction that the decoder reads from a table word. -/
def decodeTableWord (nbits w : Nat) : Option Instr := (tableFrame nbits w).map decode

end Sys2Proof
end

