-- ==== Sys2Proof/Config.lean ====
section
/-! DEFINITION. What is fixed for the machine (spec/00_scope.md R7) and the free values: constants without a body that
stand wherever the spec says "unspecified" (notes/assumptions/4.md) or "OPEN" (notes/assumptions/5.md). -/
namespace Sys2Proof.Config

/-- The least legal value of a checked bit-width field (R7, R214; the spec's decision D11). -/
abbrev minWidth : Nat := 1

/-- The greatest legal value of a checked bit-width field (R7, R214; the spec's decision D11). -/
abbrev maxWidth : Nat := 32

/-- `TAGE_WIRED`, "fixed: false" (R7, R188; the spec's decision D13). A machine with `true` has no meaning in this model:
Custom PREDICT and TRAIN would refuse by name (`Refusal.tageWired`). -/
def tageWired : Bool := false

/-- `TAGE_TAG_BITS`, an OPEN width that no rule reads (R7; decision D16). -/
opaque tageTagBits : Nat

/-- `TAGE_U_BITS`, an OPEN width that no rule reads (R7; decision D16). -/
opaque tageUBits : Nat

/-- `TAGE_IDXF_BITS`, the OPEN width of an index-fold accumulator (R7, R37; decision D16). -/
opaque tageIdxfBits : Nat

/-- `TAGE_TAGF1_BITS`, the OPEN width of a first tag-fold accumulator (R7, R37; decision D16). -/
opaque tageTagf1Bits : Nat

/-- `TAGE_TAGF2_BITS`, the OPEN width of a second tag-fold accumulator (R7, R37; decision D16). -/
opaque tageTagf2Bits : Nat

/-- FREE VALUE: what `mode` holds when a rule says that it becomes unspecified (R213, R222, R271). -/
opaque freeMode : Nat → Mode

/-- FREE VALUE: what `cfg` holds when a rule says that it becomes unspecified (R213, R222, R271). -/
opaque freeCfg : Nat → CfgRecord

/-- FREE VALUE: what the stand-alone counter cell holds after a hard reset (R271). -/
opaque freeCell : Nat → CtrState

/-- FREE VALUE, before masking to the register's width: what the stand-alone history register holds after a hard
reset (R271). -/
opaque freeHist : Nat → Nat

end Sys2Proof.Config
end

