-- ==== Sys2Proof/Machine/State.lean ====
section
/-! DEFINITION. The state of the block as plain data (spec/10_state.md), the reasons a step can stop, and the state after
a hard reset (R270). What the model adds to the spec's state is said at each field: the input and output ports, the
two stand-alone primitive cells, and the counter of the free values. -/
namespace Sys2Proof.Machine

/-! ### Enumerations and small records -/

/-- `Life`: the lifecycle state (R11, R23). -/
inductive Life where
  | uninit
  | ready
  | released
  | faulted
deriving DecidableEq, Repr

/-- The fault codes returned with every command (R241). -/
inductive FaultCode where
  | none
  | configError
  | notReady
  /-- Reserved: with cells of four states nothing raises it (R106, R245). -/
  | invariantViolation
deriving DecidableEq, Repr

/-- What a command returns: its fault code, and for an accepted PREDICT the prediction (R90). -/
structure Response where
  fault : FaultCode
  taken : Option Outcome
deriving DecidableEq, Repr

/-- What the consumer does to the block in one cycle (R276, R283). -/
inductive Input where
  /-- `cmd_valid = 0`, and nothing on the cell controls. -/
  | idle
  /-- `rst = 1` (R270). -/
  | hardReset
  /-- A word on one of the control inputs. -/
  | present (f : Frame)
deriving DecidableEq, Repr

/-! ### Storage -/

/-- A table of `size` entries, addressed `0 .. size - 1` (R60, R61). It lists the entries that differ from the table's
INIT value, at strictly rising indices; an entry that is not listed holds that INIT value (R40). -/
structure Table (α : Type) where
  size : Nat
  cells : List (Nat × α)
deriving DecidableEq, Repr

/-- An `XP(k)` instance: a counter table and a global history register (R130). -/
structure XP where
  tbl : Table CtrState
  hist : Nat
deriving DecidableEq, Repr

/-- Tournament state (R30 to R34): `tr_gtbl` and `tr_ghist` (an `XP`, R151), `tr_lht`, `tr_ptbl`, `tr_ctbl`. -/
structure TournamentState where
  global : XP
  lht : Table Nat
  ptbl : Table CtrState
  ctbl : Table CtrState
deriving DecidableEq, Repr

/-- A tagged entry: three separate fields (R36, R85). -/
structure TagEntry where
  tag : Nat
  ctr : CtrState
  u : Nat
deriving DecidableEq, Repr

/-- A folded-history accumulator: its value, the history length it folds and its own width (R37, R187). -/
structure FoldedHist where
  value : Nat
  histLen : Nat
  width : Nat
deriving DecidableEq, Repr

/-- A tagged component `tg_comp[c]` (R36, R37). -/
structure TagComp where
  ent : Table TagEntry
  foldIdx : FoldedHist
  foldTag1 : FoldedHist
  foldTag2 : FoldedHist
deriving DecidableEq, Repr

/-- Custom state (R35 to R37): the base predictor (`tg_btbl`, `tg_bhist`) and the tagged components. -/
structure CustomState where
  base : XP
  comps : List TagComp
deriving DecidableEq, Repr

/-- The scheme state: a sum with one alternative per mode (R20), and none of them outside READY (R272). -/
inductive Scheme where
  | absent
  | static
  | gshare (x : XP)
  | tournament (t : TournamentState)
  | custom (u : CustomState)
deriving DecidableEq, Repr

/-- A history register of `width` bits (R115, R121). -/
structure HistReg where
  width : Nat
  value : Nat
deriving DecidableEq, Repr

/-! ### The state -/

/-- The state of the block. -/
structure State where
  /-- The lifecycle register (R23). -/
  life : Life
  /-- The active mode; meaningful only while READY (R24). -/
  mode : Mode
  /-- The latched configuration; meaningful only while READY (R25). -/
  cfg : CfgRecord
  /-- The sticky fault status register: bit 0 CFG, bit 1 NRDY, bit 2 INV (R26). -/
  fsr : BitVec 3
  /-- The active mode's tables and history registers (R20, R28 to R39). -/
  scheme : Scheme
  /-- `q` of the counter cell whose control input takes the CTR2 words (R100, R107; notes/assumptions/1.md). -/
  cell : CtrState
  /-- `h` of the history register whose control input takes the HR2 words (R115, R121; notes/assumptions/1.md). -/
  hreg : HistReg
  /-- Output ports `rsp_taken`, `rsp_fault` in the last cycle; none when that cycle held no command (R90, R283). -/
  rsp : Option Response
  /-- The model's own: what the consumer does in the cycles to come, the next first (R15, R276). -/
  inputs : List Input
  /-- The model's own: how many times free values have been drawn (notes/assumptions/4.md). -/
  free : Nat
deriving DecidableEq, Repr

/-- Why the machine stops. -/
inductive Fault where
  /-- Raised by PREDICT and TRAIN when `life = READY` but the scheme state is not that of `mode`: there is no storage to
  read. Safe: no state that meets the invariant is such a state, and R272 says that storage is never read there. -/
  | storageAbsent
deriving DecidableEq, Repr

/-- Why the model gives an instruction no meaning. -/
inductive Refusal where
  /-- An instruction whose arm of `exec` has no meaning yet. Safe. None is left. -/
  | notModelled (mnemonic : String)
  /-- Raised by PREDICT and TRAIN in Custom mode of a machine with `TAGE_WIRED = true`: "a model ... refuses" it (R188).
  Safe. `Config.tageWired` is false, as R7 fixes it, so this machine never raises it. -/
  | tageWired
deriving DecidableEq, Repr

/-- A configuration record with every field 0. -/
def zeroCfg : CfgRecord := ⟨0, 0, 0, 0, 0, [], 0⟩

/-- The state after a hard reset: `life = UNINIT` and `fsr = 0b000` (R270), the scheme state absent (R272), and no
command seen yet. R271 leaves `mode`, `cfg` and the stand-alone cells unspecified: their values here are the model's
(DESIGN CHOICE, unsafe, notes/assumptions/3.md). -/
def State.reset : State where
  life := .uninit
  mode := .static
  cfg := zeroCfg
  fsr := 0b000#3
  scheme := .absent
  cell := .wn
  hreg := ⟨32, 0⟩
  rsp := none
  inputs := []
  free := 0

end Sys2Proof.Machine
end

