-- ==== Sys2Proof/Machine/Operands.lean ====
section
/-! DEFINITION. Masks, table indices and the legality of a configuration, all formed from operands and the state at the
start of a command (spec/41_history.md R124, spec/42_gshare.md R131, spec/43_tournament.md R151 to R154,
spec/45_facade.md R214), and the value encodings of `Life`, `CtrState` and the fault codes. -/
namespace Sys2Proof.Machine

/-! ### Masks and indices -/

/-- `mask(k) = 2^k - 1` (R10, R124). -/
def mask (k : Nat) : Nat := 2 ^ k - 1

/-- `xp_index(pc, hist, k) = (pc & mask(k)) ^ (hist & mask(k))` (R131, R151). -/
def xpIndex (pc : Pc) (hist k : Nat) : Nat := (pc.toNat &&& mask k) ^^^ (hist &&& mask k)

/-- The choice index `ci = tr_ghist & mask(H)`: the pc takes no part (R152). -/
def choiceIndex (ghist h : Nat) : Nat := ghist &&& mask h

/-- The local history table index `li = pc & mask(P)` (R153). -/
def localIndex (pc : Pc) (p : Nat) : Nat := pc.toNat &&& mask p

/-- The pattern table index `lh = tr_lht[li] & mask(L)` (R154). -/
def patternIndex (local_ l : Nat) : Nat := local_ &&& mask l

/-! ### Legality of a configuration (R214) -/

/-- A checked field must be in `1..32` (R214; the spec's decision D11). -/
def widthLegal (k : Nat) : Bool := decide (Config.minWidth ≤ k) && decide (k ≤ Config.maxWidth)

/-- Only the bit-width fields that the mode uses are checked (R214). -/
def cfgLegal (m : Mode) (cfg : CfgRecord) : Bool :=
  match m with
  | .static => true
  | .gshare => widthLegal cfg.ghBits
  | .tournament => widthLegal cfg.tourHBits && widthLegal cfg.tourPcBits && widthLegal cfg.tourLHistory
  | .custom => widthLegal cfg.ghBits

/-! ### Value encodings -/

/-- R81: `SN = 0b00`, `WN = 0b01`, `WT = 0b10`, `ST = 0b11`. -/
def ctrBits : CtrState → BitVec 2
  | .sn => 0b00#2
  | .wn => 0b01#2
  | .wt => 0b10#2
  | .st => 0b11#2

/-- R83: `UNINIT = 0b00`, `READY = 0b01`, `RELEASED = 0b10`, `FAULTED = 0b11`. -/
def lifeBits : Life → BitVec 2
  | .uninit => 0b00#2
  | .ready => 0b01#2
  | .released => 0b10#2
  | .faulted => 0b11#2

/-- R241: codes 0 to 3. -/
def faultBits : FaultCode → BitVec 2
  | .none => 0b00#2
  | .configError => 0b01#2
  | .notReady => 0b10#2
  | .invariantViolation => 0b11#2

/-! ### Storage cost -/

/-- The storage of each mode in bits (R42). -/
def storageBits (m : Mode) (cfg : CfgRecord) : Nat :=
  match m with
  | .static => 0
  | .gshare => 2 * 2 ^ cfg.ghBits + cfg.ghBits
  | .tournament =>
    2 * 2 ^ cfg.tourHBits + 2 * 2 ^ cfg.tourHBits + cfg.tourHBits
      + 2 ^ cfg.tourPcBits * cfg.tourLHistory + 2 * 2 ^ cfg.tourLHistory
  | .custom =>
    2 * 2 ^ cfg.ghBits + cfg.ghBits
      + cfg.tageCompNum * (cfg.tageCompEntry * (Config.tageTagBits + 2 + Config.tageUBits)
          + Config.tageIdxfBits + Config.tageTagf1Bits + Config.tageTagf2Bits)

end Sys2Proof.Machine
end

