-- ==== Sys2Proof/Machine/Flags.lean ====
section
/-! DEFINITION. The block's only status bits: the sticky fault status register `fsr` (spec/10_state.md R26, R27), and the
output ports that show it with `life` and the response (spec/60_exceptions.md R252, spec/70_reset_and_hazards.md R283). -/
namespace Sys2Proof.Machine

/-- The bit of `fsr` that a fault code sets: CFG, NRDY or INV (R26, R241). -/
def fsrBit : FaultCode → BitVec 3
  | .none => 0b000#3
  | .configError => 0b001#3
  | .notReady => 0b010#3
  | .invariantViolation => 0b100#3

/-- Bits are set by the fault rules and never cleared by a command (R26). -/
def fsrSet (c : FaultCode) (fsr : BitVec 3) : BitVec 3 := fsr ||| fsrBit c

/-- `fsr.CFG`, bit 0 (R26). -/
def fsrCfg (fsr : BitVec 3) : Bool := fsr.getLsbD 0

/-- `fsr.NRDY`, bit 1 (R26). -/
def fsrNrdy (fsr : BitVec 3) : Bool := fsr.getLsbD 1

/-- `fsr.INV`, bit 2 (R26). -/
def fsrInv (fsr : BitVec 3) : Bool := fsr.getLsbD 2

/-- `rsp_taken`: the prediction's bit in the cycle of an accepted PREDICT; otherwise it carries no information (R90). -/
def takenPort (s : State) : Option (BitVec 1) := (s.rsp.bind Response.taken).map outcomeBit

/-- `rsp_fault`: the fault code of this cycle's command (R241, R283). -/
def faultPort (s : State) : Option (BitVec 2) := s.rsp.map fun r => faultBits r.fault

/-- The status outputs `life` and `fsr`; reading them has no effect (R252). -/
def statusPorts (s : State) : BitVec 2 × BitVec 3 := (lifeBits s.life, s.fsr)

end Sys2Proof.Machine
end

