-- ==== Sys2Proof/Machine/Ops.lean ====
section
/-! DEFINITION. The shared operations: the counter cell and the history register (spec/40_counter.md, spec/41_history.md),
table access (spec/20_memory.md R62), the XOR-indexed primitive (spec/42_gshare.md R130 to R133), the storage that INIT
makes (spec/45_facade.md R212), raising a fault and leaving it by hard reset (spec/60_exceptions.md R247,
spec/70_reset_and_hazards.md R270), and the beginning of a cycle. -/
namespace Sys2Proof.Machine

/-! ### The saturating counter cell -/

/-- `ctr_next(state, outcome)`: the transition table of R102. -/
def ctrNext : CtrState → Outcome → CtrState
  | .sn, .taken => .wn
  | .sn, .notTaken => .sn
  | .wn, .taken => .wt
  | .wn, .notTaken => .sn
  | .wt, .taken => .st
  | .wt, .notTaken => .wn
  | .st, .taken => .st
  | .st, .notTaken => .wt

/-- `ctr_pred(state)`: Taken iff the state is WT or ST (R104). -/
def ctrPred : CtrState → Outcome
  | .sn => .notTaken
  | .wn => .notTaken
  | .wt => .taken
  | .st => .taken

/-- `ctr_sel(state)`: does a choice cell select the local sub-prediction (R105)? -/
def ctrSelLocal : CtrState → Bool
  | .sn => false
  | .wn => false
  | .wt => true
  | .st => true

/-- One cell at its control input `{upd, up}` (R107). -/
def ctrCell (upd : Bool) (up : Outcome) (q : CtrState) : CtrState := if upd then ctrNext q up else q

/-! ### The history register -/

/-- `hr_shift(h, o) = ((h << 1) | o) & mask(W)` (R116, R117). -/
def hrShift (w h : Nat) (o : Outcome) : Nat := ((h <<< 1) ||| (outcomeBit o).toNat) &&& mask w

/-- One register at its control input `{sh, din}` (R121). -/
def hrCell (sh : Bool) (din : Outcome) (h : HistReg) : HistReg :=
  if sh then { h with value := hrShift h.width h.value din } else h

/-! ### Table access (R62)

`d` is what an entry that is not listed holds: the table's INIT value. -/

/-- Look an index up in a list of entries. -/
def cellsRead {α : Type} (d : α) : List (Nat × α) → Nat → α
  | [], _ => d
  | (j, v) :: rest, i => if i = j then v else cellsRead d rest i

/-- Take an index out of a list of entries. -/
def cellsErase {α : Type} : List (Nat × α) → Nat → List (Nat × α)
  | [], _ => []
  | (j, v) :: rest, i => if i = j then cellsErase rest i else (j, v) :: cellsErase rest i

/-- Put an entry where it belongs in a rising list. -/
def cellsInsert {α : Type} : List (Nat × α) → Nat → α → List (Nat × α)
  | [], i, v => [(i, v)]
  | (j, w) :: rest, i, v => if i < j then (i, v) :: (j, w) :: rest else (j, w) :: cellsInsert rest i v

/-- `TblRead(T, i)` returns the whole entry `i` (R62). -/
def Table.read {α : Type} (d : α) (t : Table α) (i : Nat) : α := cellsRead d t.cells i

/-- `TblWrite(T, i, v)` replaces the whole entry `i` and no other entry (R62). Writing the INIT value unlists it. -/
def Table.write {α : Type} [DecidableEq α] (d : α) (t : Table α) (i : Nat) (v : α) : Table α :=
  { t with cells := if v = d then cellsErase t.cells i else cellsInsert (cellsErase t.cells i) i v }

/-- A table of `size` entries, every one at its INIT value. -/
def Table.fresh {α : Type} (size : Nat) : Table α := ⟨size, []⟩

/-- The canonical form: indices strictly rising and inside the table, no entry equal to the INIT value. -/
abbrev Table.wf {α : Type} (d : α) (t : Table α) : Prop :=
  t.cells.Pairwise (fun a b => a.1 < b.1) ∧ ∀ e ∈ t.cells, e.2 ≠ d ∧ e.1 < t.size

/-- Read a counter table, whose INIT value is `WN` (R101). -/
abbrev ctrRead (t : Table CtrState) (i : Nat) : CtrState := t.read .wn i

/-- Write a counter table. -/
abbrev ctrWrite (t : Table CtrState) (i : Nat) (v : CtrState) : Table CtrState := t.write .wn i v

/-- Read the local history table, whose INIT value is 0 (R32). -/
abbrev lhtRead (t : Table Nat) (i : Nat) : Nat := t.read 0 i

/-- Write the local history table. -/
abbrev lhtWrite (t : Table Nat) (i : Nat) (v : Nat) : Table Nat := t.write 0 i v

/-- The INIT value of a tagged entry (R36). -/
def freshEntry : TagEntry := ⟨0, .wn, 0⟩

/-! ### The XOR-indexed primitive XP(k) -/

/-- `xp_predict(X, pc)` (R132). -/
def xpPredict (k : Nat) (x : XP) (pc : Pc) : Outcome := ctrPred (ctrRead x.tbl (xpIndex pc x.hist k))

/-- `xp_train(X, pc, o)`: the index is formed from the history before the shift (R133). -/
def xpTrain (k : Nat) (x : XP) (pc : Pc) (o : Outcome) : XP :=
  let i := xpIndex pc x.hist k
  { tbl := ctrWrite x.tbl i (ctrNext (ctrRead x.tbl i) o), hist := hrShift k x.hist o }

/-! ### The storage that an accepted INIT makes (R212, R273) -/

/-- An `XP(k)` instance with every cell `WN` and the history 0. -/
def freshXP (k : Nat) : XP := ⟨Table.fresh (2 ^ k), 0⟩

/-- A folded-history accumulator at 0, with its two constants (R37). -/
def freshFold (histLen width : Nat) : FoldedHist := ⟨0, histLen, width⟩

/-- Tagged component `c` (R36, R37, R186). -/
def freshComp (cfg : CfgRecord) (c : Nat) : TagComp where
  ent := Table.fresh cfg.tageCompEntry
  foldIdx := freshFold (cfg.histLen c) Config.tageIdxfBits
  foldTag1 := freshFold (cfg.histLen c) Config.tageTagf1Bits
  foldTag2 := freshFold (cfg.histLen c) Config.tageTagf2Bits

/-- The tagged components `tg_comp[0 .. TAGE_COMP_NUM-1]`. -/
def freshComps (cfg : CfgRecord) : List TagComp := (List.range cfg.tageCompNum).map (freshComp cfg)

/-- The tables of the active mode, and only those (R20, R212). -/
def freshScheme (m : Mode) (cfg : CfgRecord) : Scheme :=
  match m with
  | .static => .static
  | .gshare => .gshare (freshXP cfg.ghBits)
  | .tournament =>
    .tournament
      { global := freshXP cfg.tourHBits
        lht := Table.fresh (2 ^ cfg.tourPcBits)
        ptbl := Table.fresh (2 ^ cfg.tourLHistory)
        ctbl := Table.fresh (2 ^ cfg.tourHBits) }
  | .custom => .custom ⟨freshXP cfg.ghBits, freshComps cfg⟩

/-! ### Responses, faults, hard reset -/

/-- Answer an accepted command: fault code 0, and the prediction of an accepted PREDICT (R90). -/
def accept (taken : Option Outcome) (s : State) : State := { s with rsp := some ⟨.none, taken⟩ }

/-- `mode`, `cfg` and all scheme state become unspecified (R213, R222, R271): the scheme state is absent (R272), the two
registers hold free values (notes/assumptions/4.md). -/
def unspecify (s : State) : State :=
  { s with
    mode := Config.freeMode s.free
    cfg := Config.freeCfg s.free
    scheme := .absent
    free := s.free + 1 }

/-- `life` after a fault: only ConfigError changes it (R242, R244). -/
def lifeAfterFault (c : FaultCode) (l : Life) : Life :=
  match c with
  | .configError => .faulted
  | _ => l

/-- `raise`: the whole effect of an aborting fault is the fault code on the response, the sticky `fsr` bit and, for
ConfigError, `life <- FAULTED` with `mode`, `cfg` and the scheme state unspecified (R242, R244, R247). -/
def raise (c : FaultCode) (s : State) : State :=
  let s' := if c = .configError then unspecify s else s
  { s' with
    life := lifeAfterFault c s.life
    fsr := fsrSet c s.fsr
    rsp := some ⟨c, none⟩ }

/-- Hard reset: `life <- UNINIT`, `fsr <- 0b000` (R270); it is the only way out of FAULTED (R247, R248). Every other
register and table becomes unspecified (R271). -/
def hardReset (s : State) : State :=
  { unspecify s with
    life := .uninit
    fsr := 0b000#3
    cell := Config.freeCell s.free
    hreg := { s.hreg with value := Config.freeHist s.free &&& mask s.hreg.width }
    rsp := none }

/-! ### The beginning of a cycle -/

/-- Take the consumer's next input off the list (notes/assumptions/6.md); the response ports show this cycle's command
only (R283, notes/assumptions/10.md). -/
def beginCycle (rest : List Input) (s : State) : State := { s with inputs := rest, rsp := none }

/-- A cycle without a command: "nothing changes" (R283), and the block "keeps all state" (R257). -/
def idleCycle (rest : List Input) (s : State) : State := beginCycle rest s

/-- A cycle with `rst = 1` (R270). -/
def resetCycle (rest : List Input) (s : State) : State := hardReset (beginCycle rest s)

/-- Present an input before all others. -/
def presentFirst (i : Input) (s : State) : State := { s with inputs := i :: s.inputs }

/-- The machine's storage is in canonical form: every table that exists is (the tables are this block's memory, R60). -/
abbrev Memory.wf (sch : Scheme) : Prop :=
  match sch with
  | .absent => True
  | .static => True
  | .gshare x => x.tbl.wf .wn
  | .tournament t => t.global.tbl.wf .wn ∧ t.lht.wf 0 ∧ t.ptbl.wf .wn ∧ t.ctbl.wf .wn
  | .custom u => u.base.tbl.wf .wn ∧ ∀ c ∈ u.comps, c.ent.wf freshEntry

end Sys2Proof.Machine
end

