-- ==== Sys2Proof/Machine/Counter.lean ====
section
/-! DEFINITION. CTR.HOLD, CTR.DEC, CTR.INC: the micro-operations of the counter cell (spec/40_counter.md R107,
spec/30_encoding.md R91), on the stand-alone cell `State.cell` (notes/assumptions/1.md). -/
namespace Sys2Proof.Machine

/-- Drive the control input `{upd, up}` of the stand-alone cell (R107). -/
def driveCell (upd : Bool) (up : Outcome) (s : State) : State := { s with cell := ctrCell upd up s.cell }

/-- CTR.HOLD: `upd = 0`, so `q` is unchanged and `up` is ignored (R91, R107). -/
def execCtrHold (s : State) : Host.Outcome State Fault Refusal := .next (driveCell false .notTaken s)

/-- CTR.DEC: `q <- ctr_next(q, NotTaken)` (R91, R107). -/
def execCtrDec (s : State) : Host.Outcome State Fault Refusal := .next (driveCell true .notTaken s)

/-- CTR.INC: `q <- ctr_next(q, Taken)` (R91, R107). -/
def execCtrInc (s : State) : Host.Outcome State Fault Refusal := .next (driveCell true .taken s)

end Sys2Proof.Machine
end

