-- ==== Sys2Proof/Machine/Gshare.lean ====
section
/-! DEFINITION. Gshare mode: `XP(GH_BITS)` on `gs_tbl`, `gs_hist` (spec/42_gshare.md R135, R136). -/
namespace Sys2Proof.Machine

/-- `GS.PREDICT(pc)` (R135). -/
def gsPredict (cfg : CfgRecord) (x : XP) (pc : Pc) : Outcome := xpPredict cfg.ghBits x pc

/-- `GS.TRAIN(pc, o)` (R136). -/
def gsTrain (cfg : CfgRecord) (x : XP) (pc : Pc) (o : Outcome) : XP := xpTrain cfg.ghBits x pc o

end Sys2Proof.Machine
end

