-- ==== Sys2Proof/Machine/Tage.lean ====
section
/-! DEFINITION. Custom mode (spec/44_tage.md): the base predictor alone predicts and trains (R182 to R184); the tagged
components are storage that no command reads or writes after INIT (R186). -/
namespace Sys2Proof.Machine

/-- `CU.PREDICT(pc)` (R183). -/
def cuPredict (cfg : CfgRecord) (u : CustomState) (pc : Pc) : Outcome := xpPredict cfg.ghBits u.base pc

/-- `CU.TRAIN(pc, o)` (R184). -/
def cuTrain (cfg : CfgRecord) (u : CustomState) (pc : Pc) (o : Outcome) : CustomState :=
  { u with base := xpTrain cfg.ghBits u.base pc o }

end Sys2Proof.Machine
end

