-- ==== Sys2Proof/Machine/Tournament.lean ====
section
/-! DEFINITION. Tournament mode (spec/43_tournament.md): the indices and sub-predictions of R151 to R157, PREDICT (R158)
and TRAIN (R164). Everything is formed from the state before the command; the writes follow in the order of R163. -/
namespace Sys2Proof.Machine

/-- `lh`: the local history of the pc's entry, as a pattern table index (R153, R154). -/
def trPattern (cfg : CfgRecord) (t : TournamentState) (pc : Pc) : Nat :=
  patternIndex (lhtRead t.lht (localIndex pc cfg.tourPcBits)) cfg.tourLHistory

/-- `ci` (R152). -/
def trChoiceAt (cfg : CfgRecord) (t : TournamentState) : Nat := choiceIndex t.global.hist cfg.tourHBits

/-- `gp`: the global sub-prediction (R151, R155). -/
def trGlobalPred (cfg : CfgRecord) (t : TournamentState) (pc : Pc) : Outcome :=
  xpPredict cfg.tourHBits t.global pc

/-- `lp`: the local sub-prediction (R156). -/
def trLocalPred (cfg : CfgRecord) (t : TournamentState) (pc : Pc) : Outcome :=
  ctrPred (ctrRead t.ptbl (trPattern cfg t pc))

/-- `TR.PREDICT(pc)` (R157, R158). -/
def trPredict (cfg : CfgRecord) (t : TournamentState) (pc : Pc) : Outcome :=
  if ctrSelLocal (ctrRead t.ctbl (trChoiceAt cfg t)) then trLocalPred cfg t pc else trGlobalPred cfg t pc

/-- Step 2 of TRAIN: the choice cell moves only when the two sub-predictions disagree, toward the one that was
right (R160). -/
def trTrainChoice (ctbl : Table CtrState) (ci : Nat) (gp lp o : Outcome) : Table CtrState :=
  if gp ≠ lp then
    ctrWrite ctbl ci (ctrNext (ctrRead ctbl ci) (if lp = o then .taken else .notTaken))
  else ctbl

/-- `TR.TRAIN(pc, o)` (R159 to R164). -/
def trTrain (cfg : CfgRecord) (t : TournamentState) (pc : Pc) (o : Outcome) : TournamentState :=
  let li := localIndex pc cfg.tourPcBits
  let lh := trPattern cfg t pc
  { ctbl := trTrainChoice t.ctbl (trChoiceAt cfg t) (trGlobalPred cfg t pc) (trLocalPred cfg t pc) o
    global := xpTrain cfg.tourHBits t.global pc o
    ptbl := ctrWrite t.ptbl lh (ctrNext (ctrRead t.ptbl lh) o)
    lht := lhtWrite t.lht li (hrShift cfg.tourLHistory lh o) }

end Sys2Proof.Machine
end

