-- ==== Sys2Proof/Machine/Facade.lean ====
section
/-! DEFINITION. The predictor facade: INIT, PREDICT, TRAIN, CLEANUP and Static mode (spec/45_facade.md). -/
namespace Sys2Proof.Machine

/-! ### The multiplexer (R216, R218 to R221) -/

/-- PREDICT in the active mode. -/
def schemePredict (m : Mode) (cfg : CfgRecord) (sch : Scheme) (pc : Pc) : Host.Outcome Outcome Fault Refusal :=
  match m, sch with
  | .static, .static => .next .taken
  | .gshare, .gshare x => .next (gsPredict cfg x pc)
  | .tournament, .tournament t => .next (trPredict cfg t pc)
  | .custom, .custom u => if Config.tageWired then .refused .tageWired else .next (cuPredict cfg u pc)
  | _, _ => .fault .storageAbsent

/-- TRAIN in the active mode. -/
def schemeTrain (m : Mode) (cfg : CfgRecord) (sch : Scheme) (pc : Pc) (o : Outcome) :
    Host.Outcome Scheme Fault Refusal :=
  match m, sch with
  | .static, .static => .next .static
  | .gshare, .gshare x => .next (.gshare (gsTrain cfg x pc o))
  | .tournament, .tournament t => .next (.tournament (trTrain cfg t pc o))
  | .custom, .custom u => if Config.tageWired then .refused .tageWired else .next (.custom (cuTrain cfg u pc o))
  | _, _ => .fault .storageAbsent

/-! ### The commands -/

/-- What an accepted INIT leaves (R212, R273). It also writes `WN` into the stand-alone cell, which "has no reset input
of its own" (R107), and 0 into the stand-alone register (R119); notes/assumptions/2.md. -/
def initialise (m : Mode) (cfg : CfgRecord) (s : State) : State :=
  { s with
    life := .ready
    mode := m
    cfg := cfg
    scheme := freshScheme m cfg
    cell := .wn
    hreg := { s.hreg with value := 0 } }

/-- What CLEANUP leaves from READY (R222). -/
def release (s : State) : State := { unspecify s with life := .released }

/-- INIT m, cfg: the lifecycle check comes first, then the configuration (R212, R213, R215, R249). -/
def execInit (m : Mode) (cfg : CfgRecord) (s : State) : Host.Outcome State Fault Refusal :=
  if s.life = .faulted then .next (raise .notReady s)
  else if cfgLegal m cfg then .next (accept none (initialise m cfg s))
  else .next (raise .configError s)

/-- PREDICT pc: reads the active mode's storage and writes nothing (R216); rejected outside READY (R217). -/
def execPredict (pc : Pc) (s : State) : Host.Outcome State Fault Refusal :=
  if s.life = .ready then
    match schemePredict s.mode s.cfg s.scheme pc with
    | .next o => .next (accept (some o) s)
    | .fault r => .fault r
    | .refused r => .refused r
  else .next (raise .notReady s)

/-- TRAIN pc, o (R218); rejected outside READY (R217). Misuse by the consumer is not checked (R139, R246). -/
def execTrain (pc : Pc) (o : Outcome) (s : State) : Host.Outcome State Fault Refusal :=
  if s.life = .ready then
    match schemeTrain s.mode s.cfg s.scheme pc o with
    | .next sch => .next (accept none { s with scheme := sch })
    | .fault r => .fault r
    | .refused r => .refused r
  else .next (raise .notReady s)

/-- CLEANUP: releases all tables from READY (R222), and is a no-operation otherwise (R223). -/
def execCleanup (s : State) : Host.Outcome State Fault Refusal :=
  if s.life = .ready then .next (accept none (release s)) else .next (accept none s)

end Sys2Proof.Machine
end

