-- ==== Sys2Proof/Machine/History.lean ====
section
/-! DEFINITION. HR.HOLD, HR.SHIFT0, HR.SHIFT1: the micro-operations of the history register (spec/41_history.md R121,
spec/30_encoding.md R92), on the stand-alone register `State.hreg` (notes/assumptions/1.md). -/
namespace Sys2Proof.Machine

/-- Drive the control input `{sh, din}` of the stand-alone register (R121). -/
def driveHist (sh : Bool) (din : Outcome) (s : State) : State := { s with hreg := hrCell sh din s.hreg }

/-- HR.HOLD: `sh = 0`, so `h` is unchanged and `din` is ignored (R92, R121). -/
def execHrHold (s : State) : Host.Outcome State Fault Refusal := .next (driveHist false .notTaken s)

/-- HR.SHIFT0: shift in NotTaken (R92, R121). -/
def execHrShift0 (s : State) : Host.Outcome State Fault Refusal := .next (driveHist true .notTaken s)

/-- HR.SHIFT1: shift in Taken (R92, R121). -/
def execHrShift1 (s : State) : Host.Outcome State Fault Refusal := .next (driveHist true .taken s)

end Sys2Proof.Machine
end

