-- ==== Sys2Proof/Machine/Dispatch.lean ====
section
/-! DEFINITION. One arm per instruction. -/
namespace Sys2Proof.Machine

def exec (i : Instr) (s : State) : Host.Outcome State Fault Refusal :=
  match i with
  | .init m cfg => Sys2Proof.Machine.execInit m cfg s
  | .predict pc => Sys2Proof.Machine.execPredict pc s
  | .train pc o => Sys2Proof.Machine.execTrain pc o s
  | .cleanup => Sys2Proof.Machine.execCleanup s
  | .ctrHold => Sys2Proof.Machine.execCtrHold s
  | .ctrDec => Sys2Proof.Machine.execCtrDec s
  | .ctrInc => Sys2Proof.Machine.execCtrInc s
  | .hrHold => Sys2Proof.Machine.execHrHold s
  | .hrShift0 => Sys2Proof.Machine.execHrShift0 s
  | .hrShift1 => Sys2Proof.Machine.execHrShift1 s

end Sys2Proof.Machine
end

