-- ==== Sys2Proof/Machine/Step.lean ====
section
/-! DEFINITION. One step: one cycle of the consumer's input (spec/00_scope.md R15, spec/70_reset_and_hazards.md R279,
R283). -/
namespace Sys2Proof.Machine

/-- One step: take the next input and run it whole. With no input left the block is idle (R257,
notes/assumptions/6.md). -/
def step (s : State) : Host.Outcome State Fault Refusal :=
  match s.inputs with
  | [] => .next (idleCycle [] s)
  | .idle :: rest => .next (idleCycle rest s)
  | .hardReset :: rest => .next (resetCycle rest s)
  | .present f :: rest => exec (decode f) (beginCycle rest s)

/-- `s` with a table word as the consumer's very next input; unchanged where the bits are no word (notes/assumptions/6.md). -/
def State.withFetchWord (s : State) (nbits w : Nat) : State :=
  match tableFrame nbits w with
  | some f => presentFirst (.present f) s
  | none => s

end Sys2Proof.Machine
end

