-- ==== Sys2Proof/Machine/Assembly.lean ====
section
/-! DEFINITION. The textual syntax of commands, one a line, and the pseudo-commands `branch` and `rep` with their
expansions (spec/30_encoding.md R93, R94; the per-event flow is spec/00_scope.md R17). -/
namespace Sys2Proof.Asm

/-- Why a text is no program. -/
inductive AsmError where
  | unknownCommand
  | badOperands
  | badNumber
  | unbalancedRep
deriving DecidableEq, Repr

/-! ### The pseudo-commands (R94) -/

/-- `branch pc, o` expands to `predict pc` and then `train pc, o`. -/
def branch (pc : Pc) (o : Outcome) : List Instr := [.predict pc, .train pc o]

/-- `rep n` of a body expands to `n` copies of it. -/
def rep (n : Nat) (body : List Instr) : List Instr := (List.replicate n body).flatten

/-! ### Characters and words -/

/-- The characters `0x7B` and `0x7D`, which open and close the body of a `rep`. -/
def openMark : Char := Char.ofNat 0x7B

/-- See `openMark`. -/
def closeMark : Char := Char.ofNat 0x7D

/-- Cut a text at every character that meets `p`. -/
def cutAt (p : Char → Bool) : List Char → List (List Char)
  | [] => [[]]
  | c :: cs =>
    if p c then [] :: cutAt p cs
    else
      match cutAt p cs with
      | w :: ws => (c :: w) :: ws
      | [] => [[c]]

/-- Is the character a blank inside a line? -/
def isBlank (c : Char) : Bool := c == ' ' || c == '\t' || c == '\r'

/-- The words of a line. -/
def words (l : List Char) : List (List Char) := (cutAt isBlank l).filter fun w => !w.isEmpty

/-- A comma stands for itself, as a word of its own. -/
def spaceCommas (l : List Char) : List Char := l.flatMap fun c => if c == ',' then [' ', ',', ' '] else [c]

/-- The opening and closing marks of a `rep` end their lines. -/
def breakMarks (l : List Char) : List Char :=
  l.flatMap fun c =>
    if c == openMark then [' ', c, '\n'] else if c == closeMark then ['\n', c, '\n'] else [c]

/-- The value of a digit in base 10 or 16. -/
def digit (base : Nat) (c : Char) : Option Nat :=
  let n := c.toNat
  let v := if 48 ≤ n ∧ n ≤ 57 then n - 48
    else if 97 ≤ n ∧ n ≤ 102 then n - 87
    else if 65 ≤ n ∧ n ≤ 70 then n - 55
    else base
  if v < base then some v else none

/-- Read digits after a value already read. -/
def digits (base : Nat) : Nat → List Char → Option Nat
  | acc, [] => some acc
  | acc, c :: cs =>
    match digit base c with
    | some d => digits base (acc * base + d) cs
    | none => none

/-- A decimal number, or a hexadecimal one after `0x`. -/
def number : List Char → Option Nat
  | [] => none
  | '0' :: 'x' :: c :: cs => digits 16 0 (c :: cs)
  | c :: cs => digits 10 0 (c :: cs)

/-- A list of numbers separated by commas. -/
def numbers : List (List Char) → Option (List Nat)
  | [] => some []
  | w :: ws =>
    match number w, numbers ws with
    | some n, some ns => some (n :: ns)
    | _, _ => none

/-! ### Operands -/

/-- `pc: decimal or 0x hexadecimal, 0 .. 0xFFFFFFFF`. -/
def pcOperand (w : List Char) : Except AsmError Pc :=
  match number w with
  | some n => if n < 2 ^ 32 then .ok (BitVec.ofNat 32 n) else .error .badNumber
  | none => .error .badNumber

/-- `T` = Taken, `N` = NotTaken. -/
def outcomeOperand (w : List Char) : Except AsmError Outcome :=
  if w = ['T'] then .ok .taken else if w = ['N'] then .ok .notTaken else .error .badOperands

/-- `static | gshare | tournament | custom`. -/
def modeOperand (w : List Char) : Except AsmError Mode :=
  if w = "static".toList then .ok .static
  else if w = "gshare".toList then .ok .gshare
  else if w = "tournament".toList then .ok .tournament
  else if w = "custom".toList then .ok .custom
  else .error .badOperands

/-- A record with every field 0: "a field not written is 0". -/
def noFields : CfgRecord := ⟨0, 0, 0, 0, 0, [], 0⟩

/-- Write the field of one name. -/
def setField (cfg : CfgRecord) (name : List Char) (values : List Nat) : Except AsmError CfgRecord :=
  match values with
  | [n] =>
    if name = "gh".toList then .ok { cfg with ghBits := n }
    else if name = "th".toList then .ok { cfg with tourHBits := n }
    else if name = "pcb".toList then .ok { cfg with tourPcBits := n }
    else if name = "lh".toList then .ok { cfg with tourLHistory := n }
    else if name = "ncomp".toList then .ok { cfg with tageCompNum := n }
    else if name = "hlen".toList then .ok { cfg with tageHistLen := [n] }
    else if name = "nent".toList then .ok { cfg with tageCompEntry := n }
    else .error .badOperands
  | ns => if name = "hlen".toList then .ok { cfg with tageHistLen := ns } else .error .badOperands

/-- The words `<field>=<n>` of an `init` line. A field that is written twice on one line has the value written last: R93 does
not say (DESIGN CHOICE, notes/assumptions/16.md). -/
def fields : CfgRecord → List (List Char) → Except AsmError CfgRecord
  | cfg, [] => .ok cfg
  | cfg, w :: ws =>
    match cutAt (· == '=') w with
    | [name, value] =>
      match numbers (cutAt (· == ',') value) with
      | some ns =>
        match setField cfg name ns with
        | .ok cfg' => fields cfg' ws
        | .error e => .error e
      | none => .error .badNumber
    | _ => .error .badOperands

/-- One history length per component: one that is not written is 0, and lengths beyond `ncomp` (all of them where `ncomp` is
not written) are dropped, as `cfgOfPorts` drops them. R93 does not say (DESIGN CHOICE, notes/assumptions/13.md and 16.md). -/
def fitHistLen (cfg : CfgRecord) : CfgRecord :=
  { cfg with tageHistLen :=
      cfg.tageHistLen.take cfg.tageCompNum ++ List.replicate (cfg.tageCompNum - cfg.tageHistLen.length) 0 }

/-- `init <mode> [<field>=<n> ...]`; the history lengths are fitted to `ncomp` by `fitHistLen`, and the record must then fit
the ports (DESIGN CHOICE, notes/assumptions/16.md). -/
def initLine (ws : List (List Char)) : Except AsmError (List Instr) :=
  match ws with
  | m :: fs =>
    match modeOperand m, fields noFields fs with
    | .ok m, .ok cfg =>
      if (fitHistLen cfg).wellFormed then .ok [.init m (fitHistLen cfg)] else .error .badNumber
    | .error e, _ => .error e
    | _, .error e => .error e
  | [] => .error .badOperands

/-- `<pc>, <T|N>`. -/
def eventOperands (ws : List (List Char)) : Except AsmError (Pc × Outcome) :=
  match ws with
  | [pc, [','], o] =>
    match pcOperand pc, outcomeOperand o with
    | .ok pc, .ok o => .ok (pc, o)
    | .error e, _ => .error e
    | _, .error e => .error e
  | _ => .error .badOperands

/-! ### Lines and programs -/

/-- What a line is. -/
inductive Line where
  | commands (is : List Instr)
  | repOpen (n : Nat)
  | repClose
deriving DecidableEq, Repr

/-- `#` starts a comment. -/
def dropComment (l : List Char) : List Char := l.takeWhile (· != '#')

/-- Read a line whose command is not `init`: its words, a comma being a word of its own. -/
def plainLine (ws : List (List Char)) : Except AsmError Line :=
  match ws with
  | [] => .ok (.commands [])
  | w :: args =>
    if w = "predict".toList then
      match args with
      | [a] => (pcOperand a).map fun pc => .commands [.predict pc]
      | _ => .error .badOperands
    else if w = "train".toList then (eventOperands args).map fun e => .commands [.train e.1 e.2]
    else if w = "branch".toList then (eventOperands args).map fun e => .commands (branch e.1 e.2)
    else if w = "cleanup".toList then
      match args with
      | [] => .ok (.commands [.cleanup])
      | _ => .error .badOperands
    else if w = "rep".toList then
      match args with
      | [n, mark] =>
        match number n with
        | some n => if mark = [openMark] then .ok (.repOpen n) else .error .badOperands
        | none => .error .badNumber
      | _ => .error .badOperands
    else if w = [closeMark] ∧ args = [] then .ok .repClose
    else .error .unknownCommand

/-- Read one line that holds no comment. It is an `init` line only where its whole first word is `init`; there a comma belongs to
its word (the list of `hlen`). -/
def line (l : List Char) : Except AsmError Line :=
  match words l with
  | [] => .ok (.commands [])
  | w :: args =>
    if w = "init".toList then (initLine args).map .commands else plainLine (words (spaceCommas l))

/-- Read lines; `pending` holds, for each open `rep`, its count and what stood before it. -/
def assembleLines : List (Nat × List Instr) → List Instr → List (List Char) → Except AsmError (List Instr)
  | [], acc, [] => .ok acc
  | _ :: _, _, [] => .error .unbalancedRep
  | pending, acc, l :: ls =>
    match line l with
    | .ok (.commands is) => assembleLines pending (acc ++ is) ls
    | .ok (.repOpen n) => assembleLines ((n, acc) :: pending) [] ls
    | .ok .repClose =>
      match pending with
      | (n, before) :: outer => assembleLines outer (before ++ rep n acc) ls
      | [] => .error .unbalancedRep
    | .error e => .error e

/-- The instructions of a program text. -/
def assemble (text : List Char) : Except AsmError (List Instr) :=
  assembleLines [] [] ((cutAt (· == '\n') text).flatMap fun l => cutAt (· == '\n') (breakMarks (dropComment l)))

end Sys2Proof.Asm
end

