-- ==== Sys2Proof/Safety.lean ====
section
/-! DEFINITION. What counts as a good state and a good run: the invariants of spec/10_state.md R41, with the scheme state
absent outside READY (spec/70_reset_and_hazards.md R272), and runs of several instructions (spec/70_reset_and_hazards.md
R282). -/
namespace Sys2Proof.Machine

/-- A history register of legal width holds a value below `2^W` (R41, R115). -/
structure HistReg.Ok (h : HistReg) : Prop where
  width_pos : 1 ≤ h.width
  width_le : h.width ≤ 32
  value_lt : h.value < 2 ^ h.width

/-- An `XP(k)` instance: a canonical table of `2^k` cells and a history below `2^k` (R41, R130). -/
structure XP.Ok (k : Nat) (x : XP) : Prop where
  canonical : x.tbl.wf .wn
  size : x.tbl.size = 2 ^ k
  hist_lt : x.hist < 2 ^ k

/-- Tournament storage of the configured shape (R30 to R34, R41). -/
structure TournamentState.Ok (cfg : CfgRecord) (t : TournamentState) : Prop where
  global : t.global.Ok cfg.tourHBits
  choice_canonical : t.ctbl.wf .wn
  choice_size : t.ctbl.size = 2 ^ cfg.tourHBits
  pattern_canonical : t.ptbl.wf .wn
  pattern_size : t.ptbl.size = 2 ^ cfg.tourLHistory
  local_canonical : t.lht.wf 0
  local_size : t.lht.size = 2 ^ cfg.tourPcBits
  local_lt : ∀ e ∈ t.lht.cells, e.2 < 2 ^ cfg.tourLHistory

/-- Custom storage: the base predictor, and tagged components that still hold what INIT gave them (R35, R186). -/
structure CustomState.Ok (cfg : CfgRecord) (u : CustomState) : Prop where
  base : u.base.Ok cfg.ghBits
  inert : u.comps = freshComps cfg

/-- The scheme state is that of the mode, in the configured shape (R20, R41). -/
def Scheme.Ok (m : Mode) (cfg : CfgRecord) (sch : Scheme) : Prop :=
  match m, sch with
  | .static, .static => True
  | .gshare, .gshare x => x.Ok cfg.ghBits
  | .tournament, .tournament t => t.Ok cfg
  | .custom, .custom u => u.Ok cfg
  | _, _ => False

/-- The invariant of the block. -/
structure BlockInv (s : State) : Prop where
  /-- While READY the configuration is legal for the mode (R212, R214). -/
  legal : s.life = .ready → cfgLegal s.mode s.cfg = true
  /-- While READY the active mode's storage exists, in its shape (R20, R41). -/
  storage : s.life = .ready → s.scheme.Ok s.mode s.cfg
  /-- Outside READY there is no scheme state (R272). -/
  absent : s.life ≠ .ready → s.scheme = .absent
  /-- The stand-alone register (R115, R117). -/
  hreg : s.hreg.Ok
  /-- "`fsr.INV` is constant 0" (R245). -/
  inv_clear : fsrInv s.fsr = false

/-- The premise of a claim about a command sequence: "no fault recorded" (R251). -/
def NoFaultRecorded (s : State) : Prop := s.fsr = 0b000#3

/-- Run instructions one after another; the observable results are the responses in order and the final state (R282).
None where a step stops. -/
def runInstrs : List Instr → State → Option (List (Option Response) × State)
  | [], s => some ([], s)
  | i :: is, s =>
    match exec i s with
    | .next t => (runInstrs is t).map fun r => (t.rsp :: r.1, r.2)
    | .fault _ => none
    | .refused _ => none

/-- The instruction is one of the two that follow a branch: PREDICT or TRAIN (R17). -/
def isEvent : Instr → Bool
  | .predict _ => true
  | .train _ _ => true
  | .init _ _ => false
  | .cleanup => false
  | .ctrHold => false
  | .ctrDec => false
  | .ctrInc => false
  | .hrHold => false
  | .hrShift0 => false
  | .hrShift1 => false

end Sys2Proof.Machine
end

