-- ==== Sys2Proof/Certificates/Slice0/Obligations.lean ====
section
/-! DEFINITION. The statements for the provers. Each docstring names the rule of spec/ that it formalises. -/

section
open Sys2Proof Sys2Proof.Machine

/-! ### Encoding -/

/-- R86 to R88, R91, R92, with R25 for the side record: the decoder gives every well-formed instruction back from its
encoding, with every operand value. -/
def Obligations.DecodeOfEncodeGivesTheInstruction : Prop :=
  ∀ i : Instr, i.wellFormed = true → decode (encode i) = i

/-- R87, R89, R91, R92: every frame decodes to an instruction whose row of the opcode table has that word. That it fits the
ports (R25) rests, for a frame with too few or too many history lengths, on the model's choice to pad with 0 and to drop
the surplus (DESIGN CHOICE, notes/assumptions/13.md). -/
def Obligations.EveryFrameDecodesIntoItsOwnRow : Prop :=
  ∀ f : Frame, f.inRow (decode f).row = true ∧ (decode f).wellFormed = true

/-- R89: every word is exactly one command, and a command ignores the fields that it does not use. The side record is
sampled only by INIT (R86). -/
def Obligations.UnusedFieldsDoNotChangeDecoding : Prop :=
  (∀ (w : CmdWord) (side : CfgPorts),
      (∃ m cfg, decode (.command w side) = .init m cfg) ∨ (∃ pc, decode (.command w side) = .predict pc) ∨
      (∃ pc o, decode (.command w side) = .train pc o) ∨ decode (.command w side) = .cleanup) ∧
  ∀ (w w' : CmdWord) (side side' : CfgPorts), opField w = opField w' →
    (opField w = 0b00#2 → modeField w = modeField w' → decode (.command w side) = decode (.command w' side)) ∧
    (opField w = 0b01#2 → pcField w = pcField w' → decode (.command w side) = decode (.command w' side')) ∧
    (opField w = 0b10#2 → pcField w = pcField w' → outcomeField w = outcomeField w' →
      decode (.command w side) = decode (.command w' side')) ∧
    (opField w = 0b11#2 → decode (.command w side) = decode (.command w' side'))

/-- R95: the worked command words. -/
def Obligations.WorkedCommandWordsDecode : Prop :=
  (∀ side, decode (.command 0x8#37 side) = .init .gshare (cfgOfPorts side)) ∧
  (∀ side, decode (.command 0x10#37 side) = .init .tournament (cfgOfPorts side)) ∧
  (∀ side, decode (.command 0x18#37 side) = .init .custom (cfgOfPorts side)) ∧
  (∀ side, decode (.command 0x0#37 side) = .init .static (cfgOfPorts side)) ∧
  (∀ side, decode (.command 0x1#37 side) = .predict 0x0#32) ∧
  (∀ side, decode (.command 0x80000A1#37 side) = .predict 0x00400005#32) ∧
  (∀ side, decode (.command 0x80000A6#37 side) = .train 0x00400005#32 .taken) ∧
  (∀ side, decode (.command 0x80000A2#37 side) = .train 0x00400005#32 .notTaken) ∧
  (∀ side, decode (.command 0x1FFFFFFFE6#37 side) = .train 0xFFFFFFFF#32 .taken) ∧
  (∀ side, decode (.command 0x3#37 side) = .cleanup)

/-- R91, R92: the eight cell control words. -/
def Obligations.CellControlWordsDecode : Prop :=
  decode (.counter 0b00#2) = .ctrHold ∧ decode (.counter 0b01#2) = .ctrHold ∧
  decode (.counter 0b10#2) = .ctrDec ∧ decode (.counter 0b11#2) = .ctrInc ∧
  decode (.history 0b00#2) = .hrHold ∧ decode (.history 0b01#2) = .hrHold ∧
  decode (.history 0b10#2) = .hrShift0 ∧ decode (.history 0b11#2) = .hrShift1

/-- The byte container is the model's choice (notes/assumptions/7.md): a word of each format, laid out in its bytes, is
decoded as that word. -/
def Obligations.WordsInTheirBytesDecodeAsTheWord : Prop :=
  (∀ (w : CmdWord) side, decodeBytes .cw37 (bytesOfNat 5 w.toNat) side = .ok (decodeCommand w side)) ∧
  (∀ (c : CellCtl) side, decodeBytes .ctr2 (bytesOfNat 1 c.toNat) side = .ok (decodeCounter c)) ∧
  (∀ (c : CellCtl) side, decodeBytes .hr2 (bytesOfNat 1 c.toNat) side = .ok (decodeHistory c))

/-- R94: the two pseudo-commands and their expansions. -/
def Obligations.PseudoCommandsExpand : Prop :=
  (∀ pc o, Asm.branch pc o = [.predict pc, .train pc o]) ∧
  (∀ body, Asm.rep 0 body = []) ∧ ∀ n body, Asm.rep (n + 1) body = body ++ Asm.rep n body

/-! ### The counter cell -/

/-- The cell controls (spec/30_encoding.md section 3, spec/40_counter.md section 3) on the stand-alone cell, which is the
model's choice (notes/assumptions/1.md): HOLD, DEC and INC complete from every state; the cell follows the transition
table and everything else is unchanged. -/
def Obligations.CounterControlsFollowTheTransitionTable : Prop :=
  ∀ s : State,
    exec .ctrHold s = .next s ∧
    exec .ctrDec s = .next { s with
      cell := match s.cell with | .sn => .sn | .wn => .sn | .wt => .wn | .st => .wt } ∧
    exec .ctrInc s = .next { s with
      cell := match s.cell with | .sn => .wn | .wn => .wt | .wt => .st | .st => .st }

/-- R103 and R108: the table as saturating arithmetic on the cell's number, and as next-state equations on its two bits. -/
def Obligations.CounterTransitionIsSaturatingArithmetic : Prop :=
  ∀ q : CtrState,
    ((ctrBits (ctrNext q .taken)).toNat = min ((ctrBits q).toNat + 1) 3 ∧
      (ctrBits (ctrNext q .notTaken)).toNat = (ctrBits q).toNat - 1) ∧
    (let q1 := (ctrBits q).getLsbD 1
     let q0 := (ctrBits q).getLsbD 0
     (ctrBits (ctrNext q .taken)).getLsbD 1 = (q1 || q0) ∧
     (ctrBits (ctrNext q .taken)).getLsbD 0 = (q1 || !q0) ∧
     (ctrBits (ctrNext q .notTaken)).getLsbD 1 = (q1 && q0) ∧
     (ctrBits (ctrNext q .notTaken)).getLsbD 0 = (q1 && !q0))

/-- R102, R104, R105: the transition table, the direction that a cell predicts, and the sub-predictor that a choice cell
selects; both are bit 1 of the cell. -/
def Obligations.CounterCellTableAndReadings : Prop :=
  ctrNext .sn .taken = .wn ∧ ctrNext .sn .notTaken = .sn ∧ ctrNext .wn .taken = .wt ∧ ctrNext .wn .notTaken = .sn ∧
  ctrNext .wt .taken = .st ∧ ctrNext .wt .notTaken = .wn ∧ ctrNext .st .taken = .st ∧ ctrNext .st .notTaken = .wt ∧
  ∀ q : CtrState,
    (ctrPred q = .taken ↔ q = .wt ∨ q = .st) ∧ (ctrPred q = .taken ↔ (ctrBits q).getLsbD 1 = true) ∧
    (ctrSelLocal q = true ↔ q = .wt ∨ q = .st) ∧ (ctrSelLocal q = true ↔ (ctrBits q).getLsbD 1 = true)

/-- R109 (c) to (f), over sequences of outcomes: order is kept by every sequence, `n` equal outcomes move a cell by `n` and
clamp it, two equal outcomes decide the prediction, and one contrary outcome does not flip a strong cell. -/
def Obligations.CounterSequencesAreMonotoneAndClamp : Prop :=
  (∀ (os : List Outcome) (q q' : CtrState), (ctrBits q).toNat ≤ (ctrBits q').toNat →
      (ctrBits (os.foldl ctrNext q)).toNat ≤ (ctrBits (os.foldl ctrNext q')).toNat) ∧
  (∀ (n : Nat) (q : CtrState),
      (ctrBits ((List.replicate n .taken).foldl ctrNext q)).toNat = min ((ctrBits q).toNat + n) 3 ∧
      (ctrBits ((List.replicate n .notTaken).foldl ctrNext q)).toNat = (ctrBits q).toNat - n) ∧
  (∀ (q : CtrState) (o : Outcome), ctrPred (ctrNext (ctrNext q o) o) = o) ∧
  ctrPred (ctrNext .st .notTaken) = .taken ∧ ctrPred (ctrNext .sn .taken) = .notTaken ∧
  ctrPred (ctrNext .wn .taken) = .taken

/-! ### The history register -/

/-- R116: a shift moves every bit up one place, puts the outcome into bit 0 and loses the old bit `W-1`. -/
def Obligations.HistoryShiftMovesEveryBitUp : Prop :=
  ∀ (w h : Nat) (o : Outcome),
    hrShift w h o = (2 * h + (outcomeBit o).toNat) % 2 ^ w ∧
    ∀ i, (hrShift w h o).testBit i =
      if w ≤ i then false else if i = 0 then decide (o = .taken) else h.testBit (i - 1)

/-- The cell controls (spec/30_encoding.md section 3, spec/41_history.md R121) on the stand-alone register, which is the
model's choice (notes/assumptions/1.md): HOLD, SHIFT0 and SHIFT1 complete from every state, and everything else is
unchanged. -/
def Obligations.HistoryControlsHoldOrShift : Prop :=
  ∀ s : State,
    exec .hrHold s = .next s ∧
    exec .hrShift0 s = .next { s with hreg := ⟨s.hreg.width, 2 * s.hreg.value % 2 ^ s.hreg.width⟩ } ∧
    exec .hrShift1 s = .next { s with hreg := ⟨s.hreg.width, (2 * s.hreg.value + 1) % 2 ^ s.hreg.width⟩ }

/-- R120: what a register holds after shifts from 0, oldest outcome first. -/
def Obligations.HistoryHoldsTheLastOutcomes : Prop :=
  (∀ (w : Nat) (os : List Outcome) (i : Nat), i < w →
      (os.foldl (hrShift w) 0).testBit i =
        if i < os.length then decide (os[os.length - 1 - i]? = some .taken) else false) ∧
  ∀ (w : Nat) (os os' : List Outcome), w ≤ os.length → w ≤ os'.length →
    os.drop (os.length - w) = os'.drop (os'.length - w) → os.foldl (hrShift w) 0 = os'.foldl (hrShift w) 0

/-! ### Indices and tables -/

/-- R131: the XOR index is `(pc ^ hist) & mask(k)`, lies inside the table, and depends only on the low `k` bits of its
operands. -/
def Obligations.XorIndexIsInRangeAndUsesLowBitsOnly : Prop :=
  ∀ (pc : Pc) (h k : Nat),
    xpIndex pc h k = (pc.toNat &&& (2 ^ k - 1)) ^^^ (h &&& (2 ^ k - 1)) ∧
    xpIndex pc h k = (pc.toNat ^^^ h) % 2 ^ k ∧ xpIndex pc h k < 2 ^ k ∧
    ∀ (pc' : Pc) (h' : Nat), pc.toNat % 2 ^ k = pc'.toNat % 2 ^ k → h % 2 ^ k = h' % 2 ^ k →
      xpIndex pc h k = xpIndex pc' h' k

/-- R62, in the model's sparse representation of a table: tables in canonical form that have the same size and the same
entries are the same data, for counter tables and for local history tables. -/
def Obligations.EqualEntriesMakeEqualTables : Prop :=
  (∀ t t' : Table CtrState, t.wf .wn → t'.wf .wn → t.size = t'.size →
      (∀ i, ctrRead t i = ctrRead t' i) → t = t') ∧
  ∀ t t' : Table Nat, t.wf 0 → t'.wf 0 → t.size = t'.size → (∀ i, lhtRead t i = lhtRead t' i) → t = t'

/-! ### Hard reset, idle cycles, and how a step runs -/

/-- R270: hard reset sets `life` and `fsr`, and it is the only way to leave FAULTED and the only way to clear a bit of
`fsr`. -/
def Obligations.HardResetAloneLeavesFaultedAndClearsFsr : Prop :=
  (∀ (s : State) rest, s.inputs = .hardReset :: rest →
      ∃ t, step s = .next t ∧ t.life = .uninit ∧ t.fsr = 0b000#3 ∧ t.inputs = rest) ∧
  ∀ s t : State, step s = .next t → (∀ rest, s.inputs ≠ .hardReset :: rest) →
    (s.life = .faulted → t.life = .faulted) ∧ t.fsr &&& s.fsr = s.fsr

/-- R15, R279: a step in which a frame is presented is `exec` of the decoded instruction. That the step takes one element off
the list of inputs (notes/assumptions/6.md) and clears the response ports before it runs, so that a cell control shows no
response (notes/assumptions/10.md), is the model's choice (DESIGN CHOICE). -/
def Obligations.StepRunsTheDecodedInstruction : Prop :=
  ∀ (s : State) f rest, s.inputs = .present f :: rest →
    step s = exec (decode f) { s with inputs := rest, rsp := none }

/-- R257, R283: in a cycle without a command the block keeps all its state. That an empty list of inputs is such a cycle
(notes/assumptions/6.md), and that the response ports then show no response (notes/assumptions/10.md), is the model's
choice (DESIGN CHOICE). -/
def Obligations.IdleCycleKeepsAllButThePorts : Prop :=
  (∀ s : State, s.inputs = [] → step s = .next { s with rsp := none }) ∧
  ∀ (s : State) rest, s.inputs = .idle :: rest → step s = .next { s with inputs := rest, rsp := none }

/-- The model's interface (notes/assumptions/6.md): a table word that decodes is the very next instruction to run. -/
def Obligations.PlacedTableWordRunsNext : Prop :=
  ∀ (s : State) (nbits w : Nat) (i : Instr), decodeTableWord nbits w = some i →
    step (s.withFetchWord nbits w) = exec i { s with rsp := none }

/-! ### INIT -/

/-- R214: which configurations are legal for each mode. -/
def Obligations.LegalConfigurationsPerMode : Prop :=
  ∀ cfg : CfgRecord,
    cfgLegal .static cfg = true ∧
    (cfgLegal .gshare cfg = true ↔ 1 ≤ cfg.ghBits ∧ cfg.ghBits ≤ 32) ∧
    (cfgLegal .tournament cfg = true ↔
      (1 ≤ cfg.tourHBits ∧ cfg.tourHBits ≤ 32) ∧ (1 ≤ cfg.tourPcBits ∧ cfg.tourPcBits ≤ 32) ∧
      (1 ≤ cfg.tourLHistory ∧ cfg.tourLHistory ≤ 32)) ∧
    (cfgLegal .custom cfg = true ↔ 1 ≤ cfg.ghBits ∧ cfg.ghBits ≤ 32)

/-- R212: an accepted INIT completes and leaves every bit of the active mode's storage at its INIT value. The two constants
that each accumulator carries are R37's: its history length, 0 where the record gives too few (DESIGN CHOICE,
notes/assumptions/13.md), and its own width, an OPEN constant (notes/assumptions/5.md). -/
def Obligations.AcceptedInitLeavesFreshStorage : Prop :=
  ∀ (m : Mode) (cfg : CfgRecord) (s : State), s.life ≠ .faulted → cfgLegal m cfg = true →
    ∃ t, exec (.init m cfg) s = .next t ∧
      t.life = .ready ∧ t.mode = m ∧ t.cfg = cfg ∧ t.fsr = s.fsr ∧ t.rsp = some ⟨.none, none⟩ ∧
      t.inputs = s.inputs ∧
      (m = .static → t.scheme = .static) ∧
      (m = .gshare → ∃ x, t.scheme = .gshare x ∧ x.tbl.size = 2 ^ cfg.ghBits ∧
        (∀ i, ctrRead x.tbl i = .wn) ∧ x.hist = 0) ∧
      (m = .tournament → ∃ r, t.scheme = .tournament r ∧
        r.global.tbl.size = 2 ^ cfg.tourHBits ∧ (∀ i, ctrRead r.global.tbl i = .wn) ∧ r.global.hist = 0 ∧
        r.ctbl.size = 2 ^ cfg.tourHBits ∧ (∀ i, ctrRead r.ctbl i = .wn) ∧
        r.lht.size = 2 ^ cfg.tourPcBits ∧ (∀ i, lhtRead r.lht i = 0) ∧
        r.ptbl.size = 2 ^ cfg.tourLHistory ∧ ∀ i, ctrRead r.ptbl i = .wn) ∧
      (m = .custom → ∃ u, t.scheme = .custom u ∧
        u.base.tbl.size = 2 ^ cfg.ghBits ∧ (∀ i, ctrRead u.base.tbl i = .wn) ∧ u.base.hist = 0 ∧
        u.comps.length = cfg.tageCompNum ∧
        ∀ c k, u.comps[c]? = some k →
          k.ent.size = cfg.tageCompEntry ∧ (∀ e, k.ent.read freshEntry e = ⟨0, .wn, 0⟩) ∧
          (k.foldIdx.value = 0 ∧ k.foldIdx.histLen = cfg.tageHistLen.getD c 0 ∧
            k.foldIdx.width = Config.tageIdxfBits) ∧
          (k.foldTag1.value = 0 ∧ k.foldTag1.histLen = cfg.tageHistLen.getD c 0 ∧
            k.foldTag1.width = Config.tageTagf1Bits) ∧
          (k.foldTag2.value = 0 ∧ k.foldTag2.histLen = cfg.tageHistLen.getD c 0 ∧
            k.foldTag2.width = Config.tageTagf2Bits))

/-- The model's choice (notes/assumptions/2.md, from R107 and R119): an accepted INIT also writes `WN` into the stand-alone
cell and 0 into the stand-alone register, whose width stays; a rejected one leaves both alone. -/
def Obligations.InitInitialisesTheStandAloneCells : Prop :=
  ∀ (m : Mode) (cfg : CfgRecord) (s t : State), exec (.init m cfg) s = .next t →
    (t.life = .ready → t.cell = .wn ∧ t.hreg = ⟨s.hreg.width, 0⟩) ∧
    (t.life = .faulted → t.cell = s.cell ∧ t.hreg = s.hreg)

/-- R213: INIT with an illegal configuration raises ConfigError, and FAULTED is sticky: no instruction leaves it. `mode`,
`cfg` and the scheme state become unspecified, so nothing is said of them here; that no table is there is
UnspecifiedStorageIsAbsentAndCellsStay. -/
def Obligations.IllegalConfigurationRaisesConfigError : Prop :=
  ∀ (m : Mode) (cfg : CfgRecord) (s : State), s.life ≠ .faulted → cfgLegal m cfg = false →
    ∃ t, exec (.init m cfg) s = .next t ∧ t.life = .faulted ∧ t.fsr = s.fsr ||| 0b001#3 ∧
      t.rsp = some ⟨.configError, none⟩ ∧ t.inputs = s.inputs ∧
      ∀ (i : Instr) (u : State), exec i t = .next u → u.life = .faulted

/-- R215: INIT while FAULTED is rejected with NotReady, whether or not its configuration is legal (R249). -/
def Obligations.InitWhileFaultedIsRejected : Prop :=
  ∀ (m : Mode) (cfg : CfgRecord) (s : State), s.life = .faulted →
    exec (.init m cfg) s = .next { s with fsr := s.fsr ||| 0b010#3, rsp := some ⟨.notReady, none⟩ }

/-! ### PREDICT and TRAIN -/

/-- R217: PREDICT and TRAIN outside READY are rejected with NotReady and change nothing else. -/
def Obligations.PredictAndTrainOutsideReadyAreRejected : Prop :=
  ∀ (s : State) (pc : Pc) (o : Outcome), s.life ≠ .ready →
    exec (.predict pc) s = .next { s with fsr := s.fsr ||| 0b010#3, rsp := some ⟨.notReady, none⟩ } ∧
    exec (.train pc o) s = .next { s with fsr := s.fsr ||| 0b010#3, rsp := some ⟨.notReady, none⟩ }

/-- R219, R220: Static mode predicts Taken for every pc, and its TRAIN changes no state. -/
def Obligations.StaticPredictsTakenAndNeverLearns : Prop :=
  ∀ (s : State) (pc : Pc) (o : Outcome), s.life = .ready → s.mode = .static → s.scheme = .static →
    exec (.predict pc) s = .next { s with rsp := some ⟨.none, some .taken⟩ } ∧
    exec (.train pc o) s = .next { s with rsp := some ⟨.none, none⟩ }

/-- R135: Gshare PREDICT, which writes nothing (R216). -/
def Obligations.GsharePredictReadsTheIndexedCell : Prop :=
  ∀ (s : State) (x : XP) (pc : Pc), s.life = .ready → s.mode = .gshare → s.scheme = .gshare x →
    exec (.predict pc) s = .next { s with
      rsp := some ⟨.none, some (ctrPred (ctrRead x.tbl
        ((pc.toNat &&& (2 ^ s.cfg.ghBits - 1)) ^^^ (x.hist &&& (2 ^ s.cfg.ghBits - 1)))))⟩ }

/-- R136: Gshare TRAIN moves the indexed cell by `ctr_next`, shifts the history, and changes nothing else. -/
def Obligations.GshareTrainMovesOneCellAndShifts : Prop :=
  ∀ (s : State) (x : XP) (pc : Pc) (o : Outcome), s.life = .ready → s.mode = .gshare → s.scheme = .gshare x →
    ∃ x', exec (.train pc o) s = .next { s with scheme := .gshare x', rsp := some ⟨.none, none⟩ } ∧
      x'.tbl.size = x.tbl.size ∧
      x'.hist = (2 * x.hist + (outcomeBit o).toNat) % 2 ^ s.cfg.ghBits ∧
      ∀ j, ctrRead x'.tbl j =
        if j = (pc.toNat &&& (2 ^ s.cfg.ghBits - 1)) ^^^ (x.hist &&& (2 ^ s.cfg.ghBits - 1))
        then ctrNext (ctrRead x.tbl j) o else ctrRead x.tbl j

/-- R158: Tournament PREDICT, which writes nothing (R216). -/
def Obligations.TournamentPredictFollowsTheChoiceCell : Prop :=
  ∀ (s : State) (r : TournamentState) (pc : Pc),
    s.life = .ready → s.mode = .tournament → s.scheme = .tournament r →
    let h := s.cfg.tourHBits
    let gi := (pc.toNat &&& (2 ^ h - 1)) ^^^ (r.global.hist &&& (2 ^ h - 1))
    let li := pc.toNat &&& (2 ^ s.cfg.tourPcBits - 1)
    let lh := lhtRead r.lht li &&& (2 ^ s.cfg.tourLHistory - 1)
    let ci := r.global.hist &&& (2 ^ h - 1)
    let gp := ctrPred (ctrRead r.global.tbl gi)
    let lp := ctrPred (ctrRead r.ptbl lh)
    exec (.predict pc) s = .next { s with
      rsp := some ⟨.none, some (if ctrRead r.ctbl ci = .sn ∨ ctrRead r.ctbl ci = .wn then gp else lp)⟩ }

/-- R164: Tournament TRAIN, all steps; every index and sub-prediction is that of the state before the command. -/
def Obligations.TournamentTrainUpdatesFromThePreUpdateState : Prop :=
  ∀ (s : State) (r : TournamentState) (pc : Pc) (o : Outcome),
    s.life = .ready → s.mode = .tournament → s.scheme = .tournament r →
    let h := s.cfg.tourHBits
    let gi := (pc.toNat &&& (2 ^ h - 1)) ^^^ (r.global.hist &&& (2 ^ h - 1))
    let li := pc.toNat &&& (2 ^ s.cfg.tourPcBits - 1)
    let lh := lhtRead r.lht li &&& (2 ^ s.cfg.tourLHistory - 1)
    let ci := r.global.hist &&& (2 ^ h - 1)
    let gp := ctrPred (ctrRead r.global.tbl gi)
    let lp := ctrPred (ctrRead r.ptbl lh)
    ∃ r', exec (.train pc o) s = .next { s with scheme := .tournament r', rsp := some ⟨.none, none⟩ } ∧
      (∀ j, ctrRead r'.ctbl j =
        if j = ci ∧ gp ≠ lp then ctrNext (ctrRead r.ctbl j) (if lp = o then .taken else .notTaken)
        else ctrRead r.ctbl j) ∧
      (∀ j, ctrRead r'.global.tbl j =
        if j = gi then ctrNext (ctrRead r.global.tbl j) o else ctrRead r.global.tbl j) ∧
      r'.global.hist = (2 * r.global.hist + (outcomeBit o).toNat) % 2 ^ h ∧
      (∀ j, ctrRead r'.ptbl j = if j = lh then ctrNext (ctrRead r.ptbl j) o else ctrRead r.ptbl j) ∧
      (∀ j, lhtRead r'.lht j =
        if j = li then (2 * lh + (outcomeBit o).toNat) % 2 ^ s.cfg.tourLHistory else lhtRead r.lht j) ∧
      r'.ctbl.size = r.ctbl.size ∧ r'.global.tbl.size = r.global.tbl.size ∧
      r'.ptbl.size = r.ptbl.size ∧ r'.lht.size = r.lht.size

/-- R183, R184: Custom PREDICT and TRAIN are those of the base predictor; no tagged component is read or written. -/
def Obligations.CustomPredictsAndTrainsTheBaseAlone : Prop :=
  ∀ (s : State) (u : CustomState) (pc : Pc) (o : Outcome),
    s.life = .ready → s.mode = .custom → s.scheme = .custom u →
    let k := s.cfg.ghBits
    let i := (pc.toNat &&& (2 ^ k - 1)) ^^^ (u.base.hist &&& (2 ^ k - 1))
    exec (.predict pc) s = .next { s with rsp := some ⟨.none, some (ctrPred (ctrRead u.base.tbl i))⟩ } ∧
    ∃ x', exec (.train pc o) s =
        .next { s with scheme := .custom ⟨x', u.comps⟩, rsp := some ⟨.none, none⟩ } ∧
      x'.tbl.size = u.base.tbl.size ∧
      x'.hist = (2 * u.base.hist + (outcomeBit o).toNat) % 2 ^ k ∧
      ∀ j, ctrRead x'.tbl j = if j = i then ctrNext (ctrRead u.base.tbl j) o else ctrRead u.base.tbl j

/-- R71: a command uses only the low bits of its pc that the active mode's index formulas name; two pcs that agree on them
cannot be told apart. -/
def Obligations.PcsThatAliasAreIndistinguishable : Prop :=
  ∀ (s : State) (pc pc' : Pc) (o : Outcome),
    (match s.mode with
      | .static => True
      | .gshare => pc.toNat % 2 ^ s.cfg.ghBits = pc'.toNat % 2 ^ s.cfg.ghBits
      | .tournament => pc.toNat % 2 ^ s.cfg.tourHBits = pc'.toNat % 2 ^ s.cfg.tourHBits ∧
          pc.toNat % 2 ^ s.cfg.tourPcBits = pc'.toNat % 2 ^ s.cfg.tourPcBits
      | .custom => pc.toNat % 2 ^ s.cfg.ghBits = pc'.toNat % 2 ^ s.cfg.ghBits) →
    exec (.predict pc) s = exec (.predict pc') s ∧ exec (.train pc o) s = exec (.train pc' o) s

/-- The model's stop (notes/assumptions/9.md): in a READY state whose storage is not that of its mode there is nothing to
read, and PREDICT and TRAIN stop by name. R272 says that no run reaches such a state. -/
def Obligations.PredictAndTrainWithoutStorageStop : Prop :=
  ∀ (s : State) (pc : Pc) (o : Outcome), s.life = .ready →
    (s.mode = .static → s.scheme ≠ .static) → (s.mode = .gshare → ∀ x, s.scheme ≠ .gshare x) →
    (s.mode = .tournament → ∀ r, s.scheme ≠ .tournament r) → (s.mode = .custom → ∀ u, s.scheme ≠ .custom u) →
    exec (.predict pc) s = .fault .storageAbsent ∧ exec (.train pc o) s = .fault .storageAbsent

/-! ### CLEANUP -/

/-- R222: CLEANUP from READY, after which PREDICT and TRAIN are rejected. `mode`, `cfg` and the scheme state become unspecified, so
nothing is said of them here; that the tables are gone is UnspecifiedStorageIsAbsentAndCellsStay. -/
def Obligations.CleanupFromReadyEntersReleased : Prop :=
  ∀ s : State, s.life = .ready →
    ∃ t, exec .cleanup s = .next t ∧ t.life = .released ∧ t.fsr = s.fsr ∧
      t.rsp = some ⟨.none, none⟩ ∧ t.inputs = s.inputs ∧
      (∀ pc, ∃ u, exec (.predict pc) t = .next u ∧ u.rsp = some ⟨.notReady, none⟩) ∧
      ∀ pc o, ∃ u, exec (.train pc o) t = .next u ∧ u.rsp = some ⟨.notReady, none⟩

/-- The model's form of "all scheme state becomes unspecified" (R272: absent, not an arbitrary value; notes/assumptions/4.md),
and that the stand-alone cells (notes/assumptions/1.md) are no part of it: after ConfigError, and after CLEANUP from
READY. -/
def Obligations.UnspecifiedStorageIsAbsentAndCellsStay : Prop :=
  (∀ (m : Mode) (cfg : CfgRecord) (s t : State), s.life ≠ .faulted → cfgLegal m cfg = false →
      exec (.init m cfg) s = .next t → t.scheme = .absent ∧ t.cell = s.cell ∧ t.hreg = s.hreg) ∧
  ∀ s t : State, s.life = .ready → exec .cleanup s = .next t →
    t.scheme = .absent ∧ t.cell = s.cell ∧ t.hreg = s.hreg

/-- R223: CLEANUP outside READY is a no-operation that is accepted. -/
def Obligations.CleanupOutsideReadyDoesNothing : Prop :=
  ∀ s : State, s.life ≠ .ready → exec .cleanup s = .next { s with rsp := some ⟨.none, none⟩ }

/-! ### Whole-machine rules -/

/-- R23 to R26, R60, R101: which instructions can change each part of the state. The clauses on the stand-alone cell and
register (notes/assumptions/1.md, and notes/assumptions/2.md for INIT), on the response ports (notes/assumptions/10.md),
on the counter of free values (notes/assumptions/4.md) and on the inputs (notes/assumptions/6.md) are of the model's
choices (DESIGN CHOICE). -/
def Obligations.EachRegisterHasItsOwnWriters : Prop :=
  ∀ (i : Instr) (s t : State), exec i s = .next t →
    (t.life ≠ s.life → (∃ m cfg, i = .init m cfg) ∨ i = .cleanup) ∧
    (t.mode ≠ s.mode → (∃ m cfg, i = .init m cfg) ∨ i = .cleanup) ∧
    (t.cfg ≠ s.cfg → (∃ m cfg, i = .init m cfg) ∨ i = .cleanup) ∧
    (t.fsr ≠ s.fsr → (∃ m cfg, i = .init m cfg) ∨ (∃ pc, i = .predict pc) ∨ ∃ pc o, i = .train pc o) ∧
    (t.scheme ≠ s.scheme → (∃ m cfg, i = .init m cfg) ∨ (∃ pc o, i = .train pc o) ∨ i = .cleanup) ∧
    (t.cell ≠ s.cell → (∃ m cfg, i = .init m cfg) ∨ i = .ctrDec ∨ i = .ctrInc) ∧
    (t.hreg ≠ s.hreg → (∃ m cfg, i = .init m cfg) ∨ i = .hrShift0 ∨ i = .hrShift1) ∧
    (t.rsp ≠ s.rsp → (∃ m cfg, i = .init m cfg) ∨ (∃ pc, i = .predict pc) ∨ (∃ pc o, i = .train pc o) ∨
      i = .cleanup) ∧
    (t.free ≠ s.free → (∃ m cfg, i = .init m cfg) ∨ i = .cleanup) ∧
    t.inputs = s.inputs

/-- R90, R241: every command returns a fault code and sets the sticky bit of that code and no other bit; a command that
was rejected returns no prediction, only PREDICT returns one, and code 3 is never returned (R245). -/
def Obligations.ResponsesAndStickyBitsAgree : Prop :=
  ∀ (i : Instr) (s t : State), i.row.port = .cw37 → exec i s = .next t →
    ∃ r, t.rsp = some r ∧
      (r.fault = .none ∧ t.fsr = s.fsr ∨ r.fault = .configError ∧ t.fsr = s.fsr ||| 0b001#3 ∨
        r.fault = .notReady ∧ t.fsr = s.fsr ||| 0b010#3) ∧
      (r.taken ≠ none ↔ r.fault = .none ∧ ∃ pc, i = .predict pc)

/-- R41 with R186, R245 and R272: every step keeps the invariant. -/
def Obligations.EveryStepKeepsTheInvariant : Prop :=
  ∀ s t : State, BlockInv s → step s = .next t → BlockInv t

/-- The state after reset meets the invariant (R270, R272; the values that notes/assumptions/3.md names). -/
def Obligations.ResetMeetsTheInvariant : Prop :=
  BlockInv State.reset ∧ State.reset.life = .uninit ∧ State.reset.fsr = 0b000#3

/-- R63, R250, R272: from every state that meets the invariant a step answers a next state; no table access can fail and
nothing is refused. -/
def Obligations.NoStepStopsUnderTheInvariant : Prop :=
  ∀ s : State, BlockInv s → ∃ t, step s = .next t

/-! ### Sequences of commands -/

/-- R274: the first prediction after INIT. -/
def Obligations.FirstPredictionAfterInit : Prop :=
  ∀ (m : Mode) (cfg : CfgRecord) (s : State) (pc : Pc), s.life ≠ .faulted → cfgLegal m cfg = true →
    ∃ t, runInstrs [.init m cfg, .predict pc] s =
      some ([some ⟨.none, none⟩, some ⟨.none, some (if m = .static then .taken else .notTaken)⟩], t)

/-- R16 ("Determinism"): after an accepted INIT, the same PREDICTs and TRAINs give the same responses and the same final
tables, whatever the block held before. -/
def Obligations.RunsFromInitForgetTheEarlierState : Prop :=
  ∀ (m : Mode) (cfg : CfgRecord) (is : List Instr) (s s' : State),
    s.life ≠ .faulted → s'.life ≠ .faulted → cfgLegal m cfg = true → (∀ i ∈ is, isEvent i = true) →
    ∃ rs t t', runInstrs (.init m cfg :: is) s = some (rs, t) ∧ runInstrs (.init m cfg :: is) s' = some (rs, t') ∧
      t.life = t'.life ∧ t.mode = t'.mode ∧ t.cfg = t'.cfg ∧ t.scheme = t'.scheme

/-- R185: with equal `GH_BITS`, Custom mode gives exactly Gshare's responses to the same events, its base predictor holds
exactly what Gshare's table and history hold, and its tagged components still hold what INIT gave them (R186). -/
def Obligations.CustomModeSimulatesGshare : Prop :=
  ∀ (cfg cfg' : CfgRecord) (is : List Instr) (s s' : State),
    s.life ≠ .faulted → s'.life ≠ .faulted → cfg.ghBits = cfg'.ghBits → cfgLegal .gshare cfg = true →
    (∀ i ∈ is, isEvent i = true) →
    ∃ rs t t' x u, runInstrs (.init .gshare cfg :: is) s = some (rs, t) ∧
      runInstrs (.init .custom cfg' :: is) s' = some (rs, t') ∧
      t.scheme = .gshare x ∧ t'.scheme = .custom u ∧ u.base = x ∧ u.comps = freshComps cfg'

/-- R185, one step: from READY Gshare and Custom states with equal `GH_BITS` and the same table and history, a PREDICT or
TRAIN completes in both with the same response, leaves table and history the same again, and leaves the tagged components
as they were (R186). These are all states of that shape, not only those that INIT leads to. -/
def Obligations.CustomEventSimulatesGshareEvent : Prop :=
  ∀ (i : Instr) (s s' : State) (x : XP) (cs : List TagComp), isEvent i = true →
    s.life = .ready → s.mode = .gshare → s.scheme = .gshare x →
    s'.life = .ready → s'.mode = .custom → s'.scheme = .custom ⟨x, cs⟩ → s.cfg.ghBits = s'.cfg.ghBits →
    ∃ x' a, exec i s = .next { s with scheme := .gshare x', rsp := a } ∧
      exec i s' = .next { s' with scheme := .custom ⟨x', cs⟩, rsp := a }

/-- R166 (a), the source's own sequence: from a fresh Tournament state, any branches whose outcome is NotTaken are all
predicted NotTaken and leave the choice table as it was. -/
def Obligations.NotTakenBranchesLeaveTheChoiceTableFresh : Prop :=
  ∀ (cfg : CfgRecord) (pcs : List Pc) (s : State), s.life ≠ .faulted → cfgLegal .tournament cfg = true →
    ∃ t r, runInstrs (.init .tournament cfg :: pcs.flatMap fun pc => Asm.branch pc .notTaken) s =
        some (some ⟨.none, none⟩ :: pcs.flatMap (fun _ => [some ⟨.none, some .notTaken⟩, some ⟨.none, none⟩]), t) ∧
      t.scheme = .tournament r ∧ ∀ i, ctrRead r.ctbl i = .wn

/-- R277: PREDICTs are harmless: any number of them before a TRAIN leave the state that the TRAIN finds, but for the
response, so the TRAIN does exactly what it would have done without them. -/
def Obligations.PredictsBeforeTrainAreHarmless : Prop :=
  ∀ (pcs : List Pc) (pc : Pc) (o : Outcome) (s : State), BlockInv s → s.life = .ready →
    ∃ rs t, runInstrs (pcs.map Instr.predict ++ [.train pc o]) s = some (rs, t) ∧
      rs.length = pcs.length + 1 ∧ exec (.train pc o) s = .next t

end
end

