-- ==== Sys2Proof/Laws/Encoding.lean ====
section
/-! SUPPORT. The fields of a command word that was put together from fields (R86), and the value encodings read back. -/
namespace Sys2Proof

variable (pc : Pc) (m : BitVec 2) (o : BitVec 1) (op : BitVec 2)

/-- Appending puts the left word above the right one. -/
theorem append_toNat {a b : Nat} (x : BitVec a) (y : BitVec b) : (x ++ y).toNat = 2 ^ b * x.toNat + y.toNat := by
  rw [BitVec.toNat_append, ← Nat.shiftLeft_add_eq_or_of_lt y.isLt, Nat.shiftLeft_eq, Nat.mul_comm]

/-- The word as a number (R86). -/
theorem commandWord_toNat :
    (commandWord pc m o op).toNat = 32 * pc.toNat + 8 * m.toNat + 4 * o.toNat + op.toNat := by
  have h : (commandWord pc m o op).toNat = (pc ++ m ++ o ++ op).toNat := rfl
  rw [h, append_toNat, append_toNat, append_toNat]
  omega

@[simp] theorem opField_commandWord : opField (commandWord pc m o op) = op := by
  apply BitVec.eq_of_toNat_eq
  rw [opField, BitVec.extractLsb'_toNat, commandWord_toNat, Nat.shiftRight_eq_div_pow]
  omega

@[simp] theorem outcomeField_commandWord : outcomeField (commandWord pc m o op) = o := by
  apply BitVec.eq_of_toNat_eq
  rw [outcomeField, BitVec.extractLsb'_toNat, commandWord_toNat, Nat.shiftRight_eq_div_pow]
  omega

@[simp] theorem modeField_commandWord : modeField (commandWord pc m o op) = m := by
  apply BitVec.eq_of_toNat_eq
  rw [modeField, BitVec.extractLsb'_toNat, commandWord_toNat, Nat.shiftRight_eq_div_pow]
  omega

@[simp] theorem pcField_commandWord : pcField (commandWord pc m o op) = pc := by
  apply BitVec.eq_of_toNat_eq
  rw [pcField, BitVec.extractLsb'_toNat, commandWord_toNat, Nat.shiftRight_eq_div_pow]
  omega

@[simp] theorem outcomeOfBit_outcomeBit (o : Outcome) : outcomeOfBit (outcomeBit o) = o := by cases o <;> rfl

@[simp] theorem modeOfBits_modeBits (m : Mode) : modeOfBits (modeBits m) = m := by cases m <;> rfl

/-- The op field is the word under the mask 3. -/
theorem and_three_eq_opField (w : CmdWord) : w.toNat &&& 3 = (opField w).toNat := by
  simp only [opField, BitVec.extractLsb'_toNat, Nat.shiftRight_zero]
  exact Nat.and_two_pow_sub_one_eq_mod w.toNat 2

end Sys2Proof
end

