-- ==== Sys2Proof/Laws/State.lean ====
section
/-! SUPPORT. One lemma per field per named update of State, so that no later proof unfolds a record update. -/
namespace Sys2Proof.Machine

/-! ### `accept` -/

@[simp] theorem accept_life (o : Option Outcome) (s : State) : (accept o s).life = s.life := rfl
@[simp] theorem accept_mode (o : Option Outcome) (s : State) : (accept o s).mode = s.mode := rfl
@[simp] theorem accept_cfg (o : Option Outcome) (s : State) : (accept o s).cfg = s.cfg := rfl
@[simp] theorem accept_fsr (o : Option Outcome) (s : State) : (accept o s).fsr = s.fsr := rfl
@[simp] theorem accept_scheme (o : Option Outcome) (s : State) : (accept o s).scheme = s.scheme := rfl
@[simp] theorem accept_cell (o : Option Outcome) (s : State) : (accept o s).cell = s.cell := rfl
@[simp] theorem accept_hreg (o : Option Outcome) (s : State) : (accept o s).hreg = s.hreg := rfl
@[simp] theorem accept_rsp (o : Option Outcome) (s : State) : (accept o s).rsp = some ⟨.none, o⟩ := rfl
@[simp] theorem accept_inputs (o : Option Outcome) (s : State) : (accept o s).inputs = s.inputs := rfl
@[simp] theorem accept_free (o : Option Outcome) (s : State) : (accept o s).free = s.free := rfl

/-! ### `unspecify` -/

@[simp] theorem unspecify_life (s : State) : (unspecify s).life = s.life := rfl
@[simp] theorem unspecify_mode (s : State) : (unspecify s).mode = Config.freeMode s.free := rfl
@[simp] theorem unspecify_cfg (s : State) : (unspecify s).cfg = Config.freeCfg s.free := rfl
@[simp] theorem unspecify_fsr (s : State) : (unspecify s).fsr = s.fsr := rfl
@[simp] theorem unspecify_scheme (s : State) : (unspecify s).scheme = .absent := rfl
@[simp] theorem unspecify_cell (s : State) : (unspecify s).cell = s.cell := rfl
@[simp] theorem unspecify_hreg (s : State) : (unspecify s).hreg = s.hreg := rfl
@[simp] theorem unspecify_rsp (s : State) : (unspecify s).rsp = s.rsp := rfl
@[simp] theorem unspecify_inputs (s : State) : (unspecify s).inputs = s.inputs := rfl
@[simp] theorem unspecify_free (s : State) : (unspecify s).free = s.free + 1 := rfl

/-! ### `hardReset` -/

@[simp] theorem hardReset_life (s : State) : (hardReset s).life = .uninit := rfl
@[simp] theorem hardReset_mode (s : State) : (hardReset s).mode = Config.freeMode s.free := rfl
@[simp] theorem hardReset_cfg (s : State) : (hardReset s).cfg = Config.freeCfg s.free := rfl
@[simp] theorem hardReset_fsr (s : State) : (hardReset s).fsr = 0b000#3 := rfl
@[simp] theorem hardReset_scheme (s : State) : (hardReset s).scheme = .absent := rfl
@[simp] theorem hardReset_cell (s : State) : (hardReset s).cell = Config.freeCell s.free := rfl
@[simp] theorem hardReset_hreg (s : State) : (hardReset s).hreg = ⟨s.hreg.width, Config.freeHist s.free &&& mask s.hreg.width⟩ := rfl
@[simp] theorem hardReset_rsp (s : State) : (hardReset s).rsp = none := rfl
@[simp] theorem hardReset_inputs (s : State) : (hardReset s).inputs = s.inputs := rfl
@[simp] theorem hardReset_free (s : State) : (hardReset s).free = s.free + 1 := rfl

/-! ### `beginCycle` -/

@[simp] theorem beginCycle_life (rest : List Input) (s : State) : (beginCycle rest s).life = s.life := rfl
@[simp] theorem beginCycle_mode (rest : List Input) (s : State) : (beginCycle rest s).mode = s.mode := rfl
@[simp] theorem beginCycle_cfg (rest : List Input) (s : State) : (beginCycle rest s).cfg = s.cfg := rfl
@[simp] theorem beginCycle_fsr (rest : List Input) (s : State) : (beginCycle rest s).fsr = s.fsr := rfl
@[simp] theorem beginCycle_scheme (rest : List Input) (s : State) : (beginCycle rest s).scheme = s.scheme := rfl
@[simp] theorem beginCycle_cell (rest : List Input) (s : State) : (beginCycle rest s).cell = s.cell := rfl
@[simp] theorem beginCycle_hreg (rest : List Input) (s : State) : (beginCycle rest s).hreg = s.hreg := rfl
@[simp] theorem beginCycle_rsp (rest : List Input) (s : State) : (beginCycle rest s).rsp = none := rfl
@[simp] theorem beginCycle_inputs (rest : List Input) (s : State) : (beginCycle rest s).inputs = rest := rfl
@[simp] theorem beginCycle_free (rest : List Input) (s : State) : (beginCycle rest s).free = s.free := rfl

/-! ### `presentFirst` -/

@[simp] theorem presentFirst_life (i : Input) (s : State) : (presentFirst i s).life = s.life := rfl
@[simp] theorem presentFirst_mode (i : Input) (s : State) : (presentFirst i s).mode = s.mode := rfl
@[simp] theorem presentFirst_cfg (i : Input) (s : State) : (presentFirst i s).cfg = s.cfg := rfl
@[simp] theorem presentFirst_fsr (i : Input) (s : State) : (presentFirst i s).fsr = s.fsr := rfl
@[simp] theorem presentFirst_scheme (i : Input) (s : State) : (presentFirst i s).scheme = s.scheme := rfl
@[simp] theorem presentFirst_cell (i : Input) (s : State) : (presentFirst i s).cell = s.cell := rfl
@[simp] theorem presentFirst_hreg (i : Input) (s : State) : (presentFirst i s).hreg = s.hreg := rfl
@[simp] theorem presentFirst_rsp (i : Input) (s : State) : (presentFirst i s).rsp = s.rsp := rfl
@[simp] theorem presentFirst_inputs (i : Input) (s : State) : (presentFirst i s).inputs = i :: s.inputs := rfl
@[simp] theorem presentFirst_free (i : Input) (s : State) : (presentFirst i s).free = s.free := rfl

/-! ### `initialise` -/

@[simp] theorem initialise_life (m : Mode) (cfg : CfgRecord) (s : State) : (initialise m cfg s).life = .ready := rfl
@[simp] theorem initialise_mode (m : Mode) (cfg : CfgRecord) (s : State) : (initialise m cfg s).mode = m := rfl
@[simp] theorem initialise_cfg (m : Mode) (cfg : CfgRecord) (s : State) : (initialise m cfg s).cfg = cfg := rfl
@[simp] theorem initialise_fsr (m : Mode) (cfg : CfgRecord) (s : State) : (initialise m cfg s).fsr = s.fsr := rfl
@[simp] theorem initialise_scheme (m : Mode) (cfg : CfgRecord) (s : State) : (initialise m cfg s).scheme = freshScheme m cfg := rfl
@[simp] theorem initialise_cell (m : Mode) (cfg : CfgRecord) (s : State) : (initialise m cfg s).cell = .wn := rfl
@[simp] theorem initialise_hreg (m : Mode) (cfg : CfgRecord) (s : State) : (initialise m cfg s).hreg = ⟨s.hreg.width, 0⟩ := rfl
@[simp] theorem initialise_rsp (m : Mode) (cfg : CfgRecord) (s : State) : (initialise m cfg s).rsp = s.rsp := rfl
@[simp] theorem initialise_inputs (m : Mode) (cfg : CfgRecord) (s : State) : (initialise m cfg s).inputs = s.inputs := rfl
@[simp] theorem initialise_free (m : Mode) (cfg : CfgRecord) (s : State) : (initialise m cfg s).free = s.free := rfl

/-! ### `release` -/

@[simp] theorem release_life (s : State) : (release s).life = .released := rfl
@[simp] theorem release_mode (s : State) : (release s).mode = Config.freeMode s.free := rfl
@[simp] theorem release_cfg (s : State) : (release s).cfg = Config.freeCfg s.free := rfl
@[simp] theorem release_fsr (s : State) : (release s).fsr = s.fsr := rfl
@[simp] theorem release_scheme (s : State) : (release s).scheme = .absent := rfl
@[simp] theorem release_cell (s : State) : (release s).cell = s.cell := rfl
@[simp] theorem release_hreg (s : State) : (release s).hreg = s.hreg := rfl
@[simp] theorem release_rsp (s : State) : (release s).rsp = s.rsp := rfl
@[simp] theorem release_inputs (s : State) : (release s).inputs = s.inputs := rfl
@[simp] theorem release_free (s : State) : (release s).free = s.free + 1 := rfl

/-! ### `driveCell` -/

@[simp] theorem driveCell_life (upd : Bool) (up : Outcome) (s : State) : (driveCell upd up s).life = s.life := rfl
@[simp] theorem driveCell_mode (upd : Bool) (up : Outcome) (s : State) : (driveCell upd up s).mode = s.mode := rfl
@[simp] theorem driveCell_cfg (upd : Bool) (up : Outcome) (s : State) : (driveCell upd up s).cfg = s.cfg := rfl
@[simp] theorem driveCell_fsr (upd : Bool) (up : Outcome) (s : State) : (driveCell upd up s).fsr = s.fsr := rfl
@[simp] theorem driveCell_scheme (upd : Bool) (up : Outcome) (s : State) : (driveCell upd up s).scheme = s.scheme := rfl
@[simp] theorem driveCell_cell (upd : Bool) (up : Outcome) (s : State) : (driveCell upd up s).cell = ctrCell upd up s.cell := rfl
@[simp] theorem driveCell_hreg (upd : Bool) (up : Outcome) (s : State) : (driveCell upd up s).hreg = s.hreg := rfl
@[simp] theorem driveCell_rsp (upd : Bool) (up : Outcome) (s : State) : (driveCell upd up s).rsp = s.rsp := rfl
@[simp] theorem driveCell_inputs (upd : Bool) (up : Outcome) (s : State) : (driveCell upd up s).inputs = s.inputs := rfl
@[simp] theorem driveCell_free (upd : Bool) (up : Outcome) (s : State) : (driveCell upd up s).free = s.free := rfl

/-! ### `driveHist` -/

@[simp] theorem driveHist_life (sh : Bool) (din : Outcome) (s : State) : (driveHist sh din s).life = s.life := rfl
@[simp] theorem driveHist_mode (sh : Bool) (din : Outcome) (s : State) : (driveHist sh din s).mode = s.mode := rfl
@[simp] theorem driveHist_cfg (sh : Bool) (din : Outcome) (s : State) : (driveHist sh din s).cfg = s.cfg := rfl
@[simp] theorem driveHist_fsr (sh : Bool) (din : Outcome) (s : State) : (driveHist sh din s).fsr = s.fsr := rfl
@[simp] theorem driveHist_scheme (sh : Bool) (din : Outcome) (s : State) : (driveHist sh din s).scheme = s.scheme := rfl
@[simp] theorem driveHist_cell (sh : Bool) (din : Outcome) (s : State) : (driveHist sh din s).cell = s.cell := rfl
@[simp] theorem driveHist_hreg (sh : Bool) (din : Outcome) (s : State) : (driveHist sh din s).hreg = hrCell sh din s.hreg := rfl
@[simp] theorem driveHist_rsp (sh : Bool) (din : Outcome) (s : State) : (driveHist sh din s).rsp = s.rsp := rfl
@[simp] theorem driveHist_inputs (sh : Bool) (din : Outcome) (s : State) : (driveHist sh din s).inputs = s.inputs := rfl
@[simp] theorem driveHist_free (sh : Bool) (din : Outcome) (s : State) : (driveHist sh din s).free = s.free := rfl

/-! ### `raise` -/

@[simp] theorem raise_life (c : FaultCode) (s : State) : (raise c s).life = lifeAfterFault c s.life := rfl
@[simp] theorem raise_fsr (c : FaultCode) (s : State) : (raise c s).fsr = fsrSet c s.fsr := rfl
@[simp] theorem raise_rsp (c : FaultCode) (s : State) : (raise c s).rsp = some ⟨c, none⟩ := rfl
@[simp] theorem raise_cell (c : FaultCode) (s : State) : (raise c s).cell = s.cell := by cases c <;> rfl
@[simp] theorem raise_hreg (c : FaultCode) (s : State) : (raise c s).hreg = s.hreg := by cases c <;> rfl
@[simp] theorem raise_inputs (c : FaultCode) (s : State) : (raise c s).inputs = s.inputs := by cases c <;> rfl
@[simp] theorem raise_configError_scheme (s : State) : (raise .configError s).scheme = .absent := rfl
@[simp] theorem raise_configError_mode (s : State) : (raise .configError s).mode = Config.freeMode s.free := rfl
@[simp] theorem raise_configError_cfg (s : State) : (raise .configError s).cfg = Config.freeCfg s.free := rfl
@[simp] theorem raise_configError_free (s : State) : (raise .configError s).free = s.free + 1 := rfl

/-- NotReady records the fault and changes nothing else (R244). -/
theorem raise_notReady (s : State) :
    raise .notReady s = { s with fsr := fsrSet .notReady s.fsr, rsp := some ⟨.notReady, none⟩ } := rfl

@[simp] theorem lifeAfterFault_notReady (l : Life) : lifeAfterFault .notReady l = l := rfl
@[simp] theorem lifeAfterFault_configError (l : Life) : lifeAfterFault .configError l = .faulted := rfl

/-- The only faults that commands raise leave `fsr.INV` as it was (R245). -/
@[simp] theorem fsrInv_fsrSet_notReady (f : BitVec 3) : fsrInv (fsrSet .notReady f) = fsrInv f := by
  simp [fsrInv, fsrSet, fsrBit]

@[simp] theorem fsrInv_fsrSet_configError (f : BitVec 3) : fsrInv (fsrSet .configError f) = fsrInv f := by
  simp [fsrInv, fsrSet, fsrBit]

end Sys2Proof.Machine
end

