-- ==== Sys2Proof/Laws/Table.lean ====
section
/-! SUPPORT. The laws of table access (R62): read after write, and that every table operation keeps the canonical form. -/
namespace Sys2Proof.Machine

variable {α : Type} {d v : α} {l : List (Nat × α)} {t : Table α} {i j : Nat}

/-! ### Lists of entries -/

theorem cellsErase_subset {e : Nat × α} (h : e ∈ cellsErase l i) : e ∈ l ∧ e.1 ≠ i := by
  induction l with
  | nil => simp [cellsErase] at h
  | cons a rest ih =>
    obtain ⟨k, w⟩ := a
    simp only [cellsErase] at h
    split at h
    · exact ⟨.tail _ (ih h).1, (ih h).2⟩
    · rename_i hk
      cases h with
      | head => exact ⟨.head _, fun h' => hk h'.symm⟩
      | tail _ h => exact ⟨.tail _ (ih h).1, (ih h).2⟩

theorem cellsErase_pairwise (h : l.Pairwise fun a b => a.1 < b.1) :
    (cellsErase l i).Pairwise fun a b => a.1 < b.1 := by
  induction h with
  | nil => exact .nil
  | cons ha _ ih =>
    simp only [cellsErase]
    split
    · exact ih
    · exact .cons (fun e he => ha e (cellsErase_subset he).1) ih

theorem mem_cellsInsert {e : Nat × α} : e ∈ cellsInsert l i v ↔ e = (i, v) ∨ e ∈ l := by
  induction l with
  | nil => simp [cellsInsert]
  | cons a rest ih =>
    simp only [cellsInsert]
    split
    · simp
    · simp only [List.mem_cons, ih]; tauto

theorem cellsInsert_pairwise (h : l.Pairwise fun a b => a.1 < b.1) (hi : ∀ e ∈ l, e.1 ≠ i) :
    (cellsInsert l i v).Pairwise fun a b => a.1 < b.1 := by
  induction h with
  | nil => simp [cellsInsert]
  | @cons a rest ha hrest ih =>
    simp only [cellsInsert]
    split
    · rename_i hlt
      refine .cons (fun e he => ?_) (.cons ha hrest)
      cases he with
      | head => exact hlt
      | tail _ he => exact Nat.lt_trans hlt (ha e he)
    · rename_i hlt
      have hne := hi a (.head _)
      refine .cons (fun e he => ?_) (ih fun e he => hi e (.tail _ he))
      rcases mem_cellsInsert.1 he with rfl | he
      · show a.1 < i; omega
      · exact ha e he

theorem cellsRead_erase_self : cellsRead d (cellsErase l i) i = d := by
  induction l with
  | nil => rfl
  | cons a rest ih =>
    simp only [cellsErase]
    split
    · exact ih
    · simp_all [cellsRead]

theorem cellsRead_erase_ne (h : j ≠ i) : cellsRead d (cellsErase l i) j = cellsRead d l j := by
  induction l with
  | nil => rfl
  | cons a rest ih =>
    simp only [cellsErase]
    split
    · rename_i hi; subst hi; simp [cellsRead, h, ih]
    · simp [cellsRead, ih]

theorem cellsRead_insert_self (h : ∀ e ∈ l, e.1 ≠ i) : cellsRead d (cellsInsert l i v) i = v := by
  induction l with
  | nil => simp [cellsInsert, cellsRead]
  | cons a rest ih =>
    have := h a (.head _)
    simp only [cellsInsert]
    split
    · simp [cellsRead]
    · simp [cellsRead, Ne.symm this, ih fun e he => h e (.tail _ he)]

theorem cellsRead_insert_ne (h : j ≠ i) : cellsRead d (cellsInsert l i v) j = cellsRead d l j := by
  induction l with
  | nil => simp [cellsInsert, cellsRead, h]
  | cons a rest ih =>
    simp only [cellsInsert]
    split
    · simp [cellsRead, h]
    · simp [cellsRead, ih]

theorem mem_of_cellsRead_ne (h : cellsRead d l i ≠ d) : (i, cellsRead d l i) ∈ l := by
  induction l with
  | nil => exact absurd rfl h
  | cons a rest ih =>
    obtain ⟨k, w⟩ := a
    simp only [cellsRead] at h ⊢
    split
    · rename_i hk; subst hk; exact .head _
    · rename_i hk; rw [if_neg hk] at h; exact .tail _ (ih h)

/-! ### Tables -/

@[simp] theorem Table.read_fresh (n : Nat) : (Table.fresh n : Table α).read d i = d := rfl

@[simp] theorem Table.fresh_size (n : Nat) : (Table.fresh n : Table α).size = n := rfl

theorem Table.fresh_wf (n : Nat) : (Table.fresh n : Table α).wf d := by simp [Table.fresh, Table.wf]

section Write
variable [DecidableEq α]

@[simp] theorem Table.write_size : (t.write d i v).size = t.size := rfl

/-- A read of the written index gives the value written (R62). -/
@[simp] theorem Table.read_write_self : (t.write d i v).read d i = v := by
  simp only [Table.read, Table.write]
  split
  · rename_i h; rw [cellsRead_erase_self, h]
  · exact cellsRead_insert_self fun e he => (cellsErase_subset he).2

/-- A write leaves every other entry alone (R62). -/
theorem Table.read_write_ne (h : j ≠ i) : (t.write d i v).read d j = t.read d j := by
  simp only [Table.read, Table.write]
  split
  · exact cellsRead_erase_ne h
  · rw [cellsRead_insert_ne h, cellsRead_erase_ne h]

/-- What a read gives after a write. -/
theorem Table.read_write : (t.write d i v).read d j = if j = i then v else t.read d j := by
  split
  · subst j; exact Table.read_write_self
  · rename_i h; exact Table.read_write_ne h

/-- Every entry listed after a write is the one written or was listed before. -/
theorem Table.mem_write {e : Nat × α} (h : e ∈ (t.write d i v).cells) :
    (e = (i, v) ∧ v ≠ d) ∨ (e ∈ t.cells ∧ e.1 ≠ i) := by
  simp only [Table.write] at h
  split at h
  · exact .inr (cellsErase_subset h)
  · rename_i hv
    rcases mem_cellsInsert.1 h with rfl | h
    · exact .inl ⟨rfl, hv⟩
    · exact .inr (cellsErase_subset h)

/-- A write inside the table keeps the canonical form. -/
theorem Table.write_wf (h : t.wf d) (hi : i < t.size) : (t.write d i v).wf d := by
  refine ⟨?_, fun e he => ?_⟩
  · simp only [Table.write]
    split
    · exact cellsErase_pairwise h.1
    · exact cellsInsert_pairwise (cellsErase_pairwise h.1) fun e he => (cellsErase_subset he).2
  · rcases Table.mem_write he with ⟨rfl, hv⟩ | ⟨he, _⟩
    · exact ⟨hv, hi⟩
    · exact h.2 e he

end Write

end Sys2Proof.Machine
end

