-- ==== Sys2Proof/Laws/Predictor.lean ====
section
/-! SUPPORT. The laws of masks, indices, history shifts and the XOR-indexed primitive, and that training keeps every
table canonical and in its shape (R41, R63). -/
namespace Sys2Proof.Machine

variable {k h : Nat} {pc : Pc} {o : Outcome} {x : XP} {cfg : CfgRecord} {t : TournamentState} {u : CustomState}

/-- Masking is reduction modulo `2^k` (R10). -/
theorem and_mask (n k : Nat) : n &&& mask k = n % 2 ^ k := Nat.and_two_pow_sub_one_eq_mod n k

theorem and_mask_lt (n k : Nat) : n &&& mask k < 2 ^ k := by
  rw [and_mask]; exact Nat.mod_lt _ (Nat.two_pow_pos k)

/-- An XOR index lies inside its table for every operand (R63, R131). -/
theorem xpIndex_lt (pc : Pc) (h k : Nat) : xpIndex pc h k < 2 ^ k :=
  Nat.xor_lt_two_pow (and_mask_lt _ _) (and_mask_lt _ _)

/-- A shifted history register holds a value below `2^W` (R117). -/
theorem hrShift_lt (w h : Nat) (o : Outcome) : hrShift w h o < 2 ^ w := and_mask_lt _ _

@[simp] theorem xpTrain_size : (xpTrain k x pc o).tbl.size = x.tbl.size := rfl
@[simp] theorem xpTrain_hist : (xpTrain k x pc o).hist = hrShift k x.hist o := rfl

/-- The cells after an XP training: the indexed cell has moved by `ctr_next`, every other cell is unchanged (R133). -/
theorem xpTrain_read (i : Nat) :
    ctrRead (xpTrain k x pc o).tbl i =
      if i = xpIndex pc x.hist k then ctrNext (ctrRead x.tbl i) o else ctrRead x.tbl i := by
  show (Table.write _ _ _ _).read _ _ = _
  rw [Table.read_write]
  split
  · rename_i hi; subst hi; rfl
  · rfl

theorem xpTrain_ok (hx : x.Ok k) : (xpTrain k x pc o).Ok k where
  canonical := Table.write_wf hx.canonical (hx.size ▸ xpIndex_lt _ _ _)
  size := hx.size
  hist_lt := hrShift_lt _ _ _

theorem freshXP_ok (k : Nat) : (freshXP k).Ok k :=
  ⟨Table.fresh_wf _, rfl, Nat.two_pow_pos k⟩

/-- The choice table after TRAIN is the old one or has one cell written (R160). -/
theorem trTrainChoice_wf {c : Table CtrState} {ci : Nat} {gp lp o : Outcome} (hc : c.wf .wn) (hi : ci < c.size) :
    (trTrainChoice c ci gp lp o).wf .wn := by
  unfold trTrainChoice
  split
  · exact Table.write_wf hc hi
  · exact hc

@[simp] theorem trTrainChoice_size {c : Table CtrState} {ci : Nat} {gp lp o : Outcome} :
    (trTrainChoice c ci gp lp o).size = c.size := by
  unfold trTrainChoice
  split <;> rfl

theorem trTrain_ok (ht : t.Ok cfg) : (trTrain cfg t pc o).Ok cfg where
  global := xpTrain_ok ht.global
  choice_canonical := trTrainChoice_wf ht.choice_canonical (ht.choice_size ▸ and_mask_lt _ _)
  choice_size := trTrainChoice_size.trans ht.choice_size
  pattern_canonical := Table.write_wf ht.pattern_canonical (ht.pattern_size ▸ and_mask_lt _ _)
  pattern_size := ht.pattern_size
  local_canonical := Table.write_wf ht.local_canonical (ht.local_size ▸ and_mask_lt _ _)
  local_size := ht.local_size
  local_lt := by
    intro e he
    rcases Table.mem_write he with ⟨rfl, _⟩ | ⟨he, _⟩
    · exact hrShift_lt _ _ _
    · exact ht.local_lt e he

theorem cuTrain_ok (hu : u.Ok cfg) : (cuTrain cfg u pc o).Ok cfg := ⟨xpTrain_ok hu.base, hu.inert⟩

/-- What INIT makes has the configured shape (R212). -/
theorem freshScheme_ok (m : Mode) (cfg : CfgRecord) : (freshScheme m cfg).Ok m cfg := by
  cases m with
  | static => trivial
  | gshare => exact freshXP_ok _
  | tournament =>
    exact ⟨freshXP_ok _, Table.fresh_wf _, rfl, Table.fresh_wf _, rfl, Table.fresh_wf _, rfl, by simp [Table.fresh]⟩
  | custom => exact ⟨freshXP_ok _, rfl⟩

/-- Storage of the configured shape is in canonical form. -/
theorem Scheme.Ok.memory_wf {m : Mode} {sch : Scheme} (h : sch.Ok m cfg) : Memory.wf sch := by
  cases m <;> cases sch <;> simp only [Scheme.Ok] at h
  · trivial
  · exact h.canonical
  · exact ⟨h.global.canonical, h.local_canonical, h.pattern_canonical, h.choice_canonical⟩
  · refine ⟨h.base.canonical, fun c hc => ?_⟩
    rw [h.inert] at hc
    obtain ⟨n, _, rfl⟩ := List.mem_map.1 hc
    exact Table.fresh_wf _

/-- Reset's storage is in canonical form. -/
theorem reset_memory_wf : Memory.wf State.reset.scheme := trivial

/-- In a state of the configured shape, TRAIN completes and keeps the shape (R218). -/
theorem schemeTrain_ok {m : Mode} {sch : Scheme} (h : sch.Ok m cfg) (pc : Pc) (o : Outcome) :
    ∃ sch', schemeTrain m cfg sch pc o = .next sch' ∧ sch'.Ok m cfg := by
  cases m <;> cases sch <;> simp only [Scheme.Ok] at h
  · exact ⟨_, rfl, trivial⟩
  · exact ⟨_, rfl, xpTrain_ok h⟩
  · exact ⟨_, rfl, trTrain_ok h⟩
  · exact ⟨_, rfl, cuTrain_ok h⟩

/-- In a state of the configured shape, PREDICT completes (R216). -/
theorem schemePredict_ok {m : Mode} {sch : Scheme} (h : sch.Ok m cfg) (pc : Pc) :
    ∃ o, schemePredict m cfg sch pc = .next o := by
  cases m <;> cases sch <;> simp only [Scheme.Ok] at h <;> exact ⟨_, rfl⟩

end Sys2Proof.Machine
end

