-- ==== Sys2Proof/Laws/Exec.lean ====
section
/-! SUPPORT. What each command can do, said once: if it answers a next state, then one of these cases holds. -/
namespace Sys2Proof.Machine

variable {s t : State} {m : Mode} {cfg : CfgRecord} {pc : Pc} {o : Outcome}

theorem execInit_cases (h : execInit m cfg s = .next t) :
    (s.life = .faulted ∧ t = raise .notReady s) ∨
    (s.life ≠ .faulted ∧ cfgLegal m cfg = true ∧ t = accept none (initialise m cfg s)) ∨
    (s.life ≠ .faulted ∧ cfgLegal m cfg = false ∧ t = raise .configError s) := by
  unfold execInit at h
  split at h
  · cases h; exact .inl ⟨‹_›, rfl⟩
  · split at h
    · cases h; exact .inr (.inl ⟨‹_›, ‹_›, rfl⟩)
    · cases h; exact .inr (.inr ⟨‹_›, Bool.eq_false_iff.2 ‹_›, rfl⟩)

theorem execPredict_cases (h : execPredict pc s = .next t) :
    (s.life = .ready ∧ ∃ o, schemePredict s.mode s.cfg s.scheme pc = .next o ∧ t = accept (some o) s) ∨
    (s.life ≠ .ready ∧ t = raise .notReady s) := by
  unfold execPredict at h
  split at h
  · split at h <;> cases h
    exact .inl ⟨‹_›, _, ‹_›, rfl⟩
  · cases h; exact .inr ⟨‹_›, rfl⟩

theorem execTrain_cases (h : execTrain pc o s = .next t) :
    (s.life = .ready ∧ ∃ sch, schemeTrain s.mode s.cfg s.scheme pc o = .next sch ∧
      t = accept none { s with scheme := sch }) ∨
    (s.life ≠ .ready ∧ t = raise .notReady s) := by
  unfold execTrain at h
  split at h
  · split at h <;> cases h
    exact .inl ⟨‹_›, _, ‹_›, rfl⟩
  · cases h; exact .inr ⟨‹_›, rfl⟩

theorem execCleanup_cases (h : execCleanup s = .next t) :
    (s.life = .ready ∧ t = accept none (release s)) ∨ (s.life ≠ .ready ∧ t = accept none s) := by
  unfold execCleanup at h
  split at h
  · cases h; exact .inl ⟨‹_›, rfl⟩
  · cases h; exact .inr ⟨‹_›, rfl⟩

/-- What a step can do: an idle cycle, a hard reset, or the instruction of the frame that is presented (R283). -/
theorem step_cases (h : step s = .next t) :
    (∃ rest, (s.inputs = [] ∧ rest = [] ∨ s.inputs = .idle :: rest) ∧ t = idleCycle rest s) ∨
    (∃ rest, s.inputs = .hardReset :: rest ∧ t = resetCycle rest s) ∨
    (∃ f rest, s.inputs = .present f :: rest ∧ exec (decode f) (beginCycle rest s) = .next t) := by
  unfold step at h
  split at h
  · cases h; exact .inl ⟨[], .inl ⟨‹_›, rfl⟩, rfl⟩
  · cases h; exact .inl ⟨_, .inr ‹_›, rfl⟩
  · cases h; exact .inr (.inl ⟨_, ‹_›, rfl⟩)
  · exact .inr (.inr ⟨_, _, ‹_›, h⟩)

/-- A cell control holds or moves the stand-alone register within its width (R117, R121). -/
theorem hrCell_ok {h : HistReg} (hh : h.Ok) (sh : Bool) (din : Outcome) : (hrCell sh din h).Ok := by
  cases sh with
  | false => exact hh
  | true => exact ⟨hh.width_pos, hh.width_le, hrShift_lt _ _ _⟩

end Sys2Proof.Machine
end

