-- ==== Sys2Proof/Laws/PerInstr.lean ====
section
/-! SUPPORT. The family `RowWord`: an instruction's encoded word is one of the words of its row of the opcode table
(match, mask and format of R87, R91, R92). -/
namespace Sys2Proof.Laws.RowWord

/-- The encoded word matches the instruction's own row. -/
def Statement (i : Instr) : Prop := (encode i).inRow i.row = true

theorem command_inRow {w : CmdWord} {side : CfgPorts} {n : Nat} (h : (opField w).toNat = n) :
    (Frame.command w side).inRow ⟨.cw37, n, 0x3⟩ = true := by
  simp [Frame.inRow, Frame.port, Frame.bits, and_three_eq_opField, h]

theorem init (m : Mode) (cfg : CfgRecord) : Statement (.init m cfg) :=
  command_inRow (by rw [opField_commandWord]; rfl)

theorem predict (pc : Pc) : Statement (.predict pc) := command_inRow (by rw [opField_commandWord]; rfl)

theorem train (pc : Pc) (o : Outcome) : Statement (.train pc o) :=
  command_inRow (by rw [opField_commandWord]; rfl)

theorem cleanup : Statement .cleanup := by unfold Statement; decide
theorem ctrHold : Statement .ctrHold := by unfold Statement; decide
theorem ctrDec : Statement .ctrDec := by unfold Statement; decide
theorem ctrInc : Statement .ctrInc := by unfold Statement; decide
theorem hrHold : Statement .hrHold := by unfold Statement; decide
theorem hrShift0 : Statement .hrShift0 := by unfold Statement; decide
theorem hrShift1 : Statement .hrShift1 := by unfold Statement; decide

end Sys2Proof.Laws.RowWord
end

