-- ==== Sys2Proof/Tests/Slice0.lean ====
section
/-! SUPPORT. The model's own tests. Expected values are the spec's (spec/30_encoding.md R95 and the vectors of
spec/95_test_vectors.md, named at each test); then, for every statement with hypotheses, a witness that meets them. -/
namespace Sys2Proof.Tests
open Sys2Proof.Machine

/-! ### Small states -/

/-- A counter table from its entries. -/
def ctrs (l : List CtrState) : Table CtrState :=
  l.zipIdx.foldl (fun t e => ctrWrite t e.2 e.1) (Table.fresh l.length)

/-- A local history table from its entries. -/
def locals (l : List Nat) : Table Nat := l.zipIdx.foldl (fun t e => lhtWrite t e.2 e.1) (Table.fresh l.length)

/-- The entries of a counter table of four cells. -/
def four (t : Table CtrState) : List CtrState := (List.range 4).map (ctrRead t)

/-- A READY state with given storage; `GH_BITS = 2`, `TOUR_H_BITS = 2`, `TOUR_PC_BITS = 1`, `TOUR_L_HISTORY = 2`. -/
def readyState (m : Mode) (sch : Scheme) : State :=
  { State.reset with life := .ready, mode := m, cfg := ⟨2, 2, 1, 2, 0, [], 0⟩, scheme := sch }

/-- The Gshare state of V-G11. -/
def stateG11 : State := readyState .gshare (.gshare ⟨ctrs [.wt, .wt, .wn, .st], 3⟩)

/-- The Tournament state of V-T2. -/
def storageT2 : TournamentState := ⟨⟨ctrs [.wt, .wn, .wn, .wt], 3⟩, locals [3, 0], ctrs [.wt, .wt, .wn, .wn], ctrs [.wn, .wn, .wn, .wn]⟩
def stateT2 : State := readyState .tournament (.tournament storageT2)

/-- The Tournament state before event 9 of P3. -/
def storageP3 : TournamentState :=
  ⟨⟨ctrs [.wt, .sn, .st, .wn], 2⟩, locals [2, 0], ctrs [.wt, .sn, .st, .wn], ctrs [.wn, .wt, .wn, .sn]⟩
def stateP3 : State := readyState .tournament (.tournament storageP3)

/-- A Custom state with the base of V-G11 and one tagged component. -/
def storageU : CustomState := ⟨⟨ctrs [.wt, .wt, .wn, .st], 3⟩, [freshComp ⟨2, 0, 0, 0, 1, [4], 4⟩ 0]⟩
def stateU : State := readyState .custom (.custom storageU)

/-- A Static state. -/
def stateS : State := readyState .static .static

/-- The state of V-F3: FAULTED. -/
def stateF : State := { State.reset with life := .faulted, fsr := 0b001#3 }

/-- The next state that an instruction answers. -/
def after (i : Instr) (s : State) : Option State :=
  match exec i s with
  | .next t => some t
  | .fault _ => none
  | .refused _ => none

/-- The response that an instruction answers with. -/
def answer (i : Instr) (s : State) : Option Response := (after i s).bind State.rsp

/-- Cells and history of an `XP`. -/
def xpView (x : XP) : List CtrState × Nat := (four x.tbl, x.hist)

/-- The Gshare or Custom base storage after an instruction. -/
def xpAfter (i : Instr) (s : State) : Option (List CtrState × Nat) :=
  match (after i s).map State.scheme with
  | some (.gshare x) => some (xpView x)
  | some (.custom u) => some (xpView u.base)
  | _ => none

/-- The Tournament storage after an instruction: `tr_gtbl`, `tr_ghist`, `tr_ctbl`, `tr_lht`, `tr_ptbl`. -/
def trAfter (i : Instr) (s : State) :
    Option ((List CtrState × Nat) × List CtrState × List Nat × List CtrState) :=
  match (after i s).map State.scheme with
  | some (.tournament t) => some (xpView t.global, four t.ctbl, [lhtRead t.lht 0, lhtRead t.lht 1], four t.ptbl)
  | _ => none

/-! ### WellFormed: one ill-formed term for each check -/

theorem test_wf_good : (Instr.init .custom ⟨63, 63, 63, 63, 2, [4, 8], 4⟩).wellFormed = true := by decide
theorem test_wf_gh : (Instr.init .gshare ⟨64, 0, 0, 0, 0, [], 0⟩).wellFormed = false := by decide
theorem test_wf_th : (Instr.init .gshare ⟨0, 64, 0, 0, 0, [], 0⟩).wellFormed = false := by decide
theorem test_wf_pcb : (Instr.init .gshare ⟨0, 0, 64, 0, 0, [], 0⟩).wellFormed = false := by decide
theorem test_wf_lh : (Instr.init .gshare ⟨0, 0, 0, 64, 0, [], 0⟩).wellFormed = false := by decide
theorem test_wf_hlen : (Instr.init .custom ⟨2, 0, 0, 0, 2, [4], 4⟩).wellFormed = false := by decide

/-! ### Decoding: words of R95 and of "Command-word encodings" in spec/95_test_vectors.md -/

theorem test_decode_init : decode (.command 0x10#37 ⟨0#6, 2#6, 1#6, 2#6, 0, [], 0⟩)
    = .init .tournament ⟨0, 2, 1, 2, 0, [], 0⟩ := by decide
theorem test_decode_init_custom : decode (.command 0x18#37 ⟨2#6, 0#6, 0#6, 0#6, 2, [4], 4⟩)
    = .init .custom ⟨2, 0, 0, 0, 2, [4, 0], 4⟩ := by decide
theorem test_decode_predict : decode (.command 0x221#37 zeroPorts) = .predict 0x11#32 := by decide
theorem test_decode_train : decode (.command 0x8000146#37 zeroPorts) = .train 0x0040000A#32 .taken
    ∧ decode (.command 0x242#37 zeroPorts) = .train 0x12#32 .notTaken := by decide
theorem test_decode_cleanup : decode (.command 0x1FFFFFFFFB#37 zeroPorts) = .cleanup := by decide
theorem test_decode_ctr : decode (.counter 0b01#2) = .ctrHold ∧ decode (.counter 0b10#2) = .ctrDec
    ∧ decode (.counter 0b11#2) = .ctrInc := by decide
theorem test_decode_hr : decode (.history 0b01#2) = .hrHold ∧ decode (.history 0b10#2) = .hrShift0
    ∧ decode (.history 0b11#2) = .hrShift1 := by decide

theorem test_encode_words : (encode (.train 0xFFFFFFFF#32 .taken)).bits = 0x1FFFFFFFE6
    ∧ (encode (.predict 0x0040000A#32)).bits = 0x8000141 ∧ (encode (.init .gshare zeroCfg)).bits = 0x8
    ∧ (encode .cleanup).bits = 0x3 := by decide

theorem test_bytes_reject : decodeBytes .cw37 [3#8, 0#8, 0#8, 0#8, 0x20#8] zeroPorts = .error (.bitsAboveWord .cw37)
    ∧ decodeBytes .cw37 [3#8] zeroPorts = .error (.wrongByteCount .cw37 1)
    ∧ decodeBytes .hr2 [4#8] zeroPorts = .error (.bitsAboveWord .hr2)
    ∧ decodeBytes .hr2 [2#8] zeroPorts = .ok .hrShift0 := by decide

theorem test_table_word : decodeTableWord 40 0x80000A6 = some (.train 0x00400005#32 .taken)
    ∧ decodeTableWord 8 2 = some .ctrDec ∧ decodeTableWord 40 (2 ^ 37) = none := by decide

/-! ### Text: P1, and a `rep` (R93, R94) -/

theorem test_assemble_P1 : Asm.assemble "init gshare gh=2        # CW 0x8\nbranch 0x0, T\n".toList
    = .ok [.init .gshare ⟨2, 0, 0, 0, 0, [], 0⟩, .predict 0#32, .train 0#32 .taken] := by decide

/-- Log entry 16: lengths beyond `ncomp` are dropped, and one that is not written is 0. -/
theorem test_assemble_hist_lengths :
    Asm.initLine ["custom".toList, "hlen=4,9".toList, "ncomp=1".toList] =
      .ok [.init .custom ⟨0, 0, 0, 0, 1, [4], 0⟩] ∧
    Asm.initLine ["custom".toList, "hlen=4,9".toList] = .ok [.init .custom ⟨0, 0, 0, 0, 0, [], 0⟩] ∧
    Asm.initLine ["custom".toList, "ncomp=2".toList, "hlen=4".toList] =
      .ok [.init .custom ⟨0, 0, 0, 0, 2, [4, 0], 0⟩] := by decide

/-- R93 has no command `init,xyz`: the whole first word names the command. -/
theorem test_line_whole_first_word :
    Asm.line "init,xyz gshare gh=2".toList = .error .unknownCommand := by decide

theorem test_assemble_rep : Asm.assemble
      ("rep 2 ".toList ++ Asm.openMark :: "train 0x1F, N".toList ++ Asm.closeMark :: "\ncleanup".toList)
    = .ok [.train 31#32 .notTaken, .train 31#32 .notTaken, .cleanup] := by decide

/-! ### Masks and indices: V-H9, V-G1 to V-G8 -/

theorem test_mask : mask 1 = 1 ∧ mask 2 = 3 ∧ mask 10 = 0x3FF ∧ mask 13 = 0x1FFF ∧ mask 32 = 0xFFFFFFFF := by decide

theorem test_xpIndex : xpIndex 0xDEADBEEF#32 0x2AA 10 = 0x045 ∧ xpIndex 0x00401A3C#32 0x1FFF 13 = 0x05C3
    ∧ xpIndex 0xFFFFFFFF#32 1 1 = 0 ∧ xpIndex 0x80000001#32 0xFFFFFFFF 32 = 0x7FFFFFFE
    ∧ xpIndex 0x12345678#32 0x9 4 = 0x1 ∧ xpIndex 0xABCD5678#32 0x9 4 = 0x1
    ∧ xpIndex 1#32 2 2 = 3 ∧ xpIndex 2#32 1 2 = 3 := by decide

/-! ### Cell controls: V-C8 and V-S3, V-H8 and V-H4 -/

theorem test_ctrHold : (after .ctrHold { State.reset with cell := .wt }).map State.cell = some .wt := by decide
theorem test_ctrDec : (after .ctrDec { State.reset with cell := .wt }).map State.cell = some .wn
    ∧ (after .ctrDec { State.reset with cell := .sn }).map State.cell = some .sn := by decide
theorem test_ctrInc : (after .ctrInc { State.reset with cell := .wt }).map State.cell = some .st
    ∧ (after .ctrInc { State.reset with cell := .st }).map State.cell = some .st := by decide
theorem test_hrHold : (after .hrHold { State.reset with hreg := ⟨3, 5⟩ }).map State.hreg = some ⟨3, 5⟩ := by decide
theorem test_hrShift0 : (after .hrShift0 { State.reset with hreg := ⟨3, 5⟩ }).map State.hreg = some ⟨3, 2⟩
    ∧ (after .hrShift0 { State.reset with hreg := ⟨32, 0xFFFFFFFF⟩ }).map State.hreg = some ⟨32, 0xFFFFFFFE⟩ := by
  decide
theorem test_hrShift1 : (after .hrShift1 { State.reset with hreg := ⟨3, 5⟩ }).map State.hreg = some ⟨3, 3⟩
    ∧ (after .hrShift1 { State.reset with hreg := ⟨1, 0⟩ }).map State.hreg = some ⟨1, 1⟩ := by decide

/-! ### Commands -/

/-- V-F9 (INIT from READY starts afresh), V-F7 (ignored fields), V-F5 (`gh=32`). -/
theorem test_init_accepted :
    xpAfter (.init .gshare ⟨2, 0, 0, 0, 0, [], 0⟩) stateG11 = some ([.wn, .wn, .wn, .wn], 0)
    ∧ (after (.init .gshare ⟨32, 0, 0, 0, 0, [], 0⟩) State.reset).map State.life = some .ready := by decide

/-- V-F3, V-F5 (`gh=33`), V-F6, V-F4. -/
theorem test_init_rejected :
    (after (.init .gshare zeroCfg) State.reset).map (fun t => (t.life, t.fsr)) = some (.faulted, 0b001#3)
    ∧ answer (.init .gshare ⟨33, 0, 0, 0, 0, [], 0⟩) State.reset = some ⟨.configError, none⟩
    ∧ answer (.init .tournament ⟨0, 2, 0, 2, 0, [], 0⟩) State.reset = some ⟨.configError, none⟩
    ∧ (after (.init .gshare ⟨2, 0, 0, 0, 0, [], 0⟩) stateF).map (fun t => (t.life, t.fsr, t.rsp))
        = some (.faulted, 0b011#3, some ⟨.notReady, none⟩) := by decide

/-- V-G11, P3 event 10 (its state after event 9), V-F1. -/
theorem test_predict_accepted :
    answer (.predict 0x0#32) stateG11 = some ⟨.none, some .taken⟩
    ∧ answer (.predict 0x1#32) stateG11 = some ⟨.none, some .notTaken⟩
    ∧ answer (.predict 0x10#32) (readyState .tournament (.tournament ⟨⟨ctrs [.wt, .sn, .st, .wt], 1⟩, locals [2, 1],
        ctrs [.st, .sn, .st, .wn], ctrs [.wn, .wt, .wt, .sn]⟩)) = some ⟨.none, some .taken⟩
    ∧ answer (.predict 0x1#32) stateU = some ⟨.none, some .notTaken⟩
    ∧ answer (.predict 0xFFFFFFFF#32) stateS = some ⟨.none, some .taken⟩ := by decide

/-- V-F2. -/
theorem test_predict_rejected : (after (.predict 0x4#32) State.reset).map (fun t => (t.life, t.fsr, t.rsp))
    = some (.uninit, 0b010#3, some ⟨.notReady, none⟩) := by decide

/-- V-G12, and the same on the Custom base. -/
theorem test_train_xp : xpAfter (.train 0x3#32 .notTaken) stateG11 = some ([.wn, .wt, .wn, .st], 2)
    ∧ xpAfter (.train 0x3#32 .notTaken) stateU = some ([.wn, .wt, .wn, .st], 2) := by decide

/-- V-T2, and P3 event 9. -/
theorem test_train_tournament :
    trAfter (.train 0x10#32 .taken) stateT2
      = some (([.wt, .wn, .wn, .st], 3), [.wn, .wn, .wn, .sn], [3, 0], [.wt, .wt, .wn, .wt])
    ∧ trAfter (.train 0x11#32 .taken) stateP3
      = some (([.wt, .sn, .st, .wt], 1), [.wn, .wt, .wt, .sn], [2, 1], [.st, .sn, .st, .wn]) := by decide

/-- V-F8, V-F10, V-F4. -/
theorem test_cleanup : (after .cleanup stateG11).map (fun t => (t.life, t.scheme)) = some (.released, .absent)
    ∧ (after .cleanup State.reset).map State.life = some .uninit
    ∧ (after .cleanup stateF).map (fun t => (t.life, t.fsr, t.rsp)) = some (.faulted, 0b001#3, some ⟨.none, none⟩) := by
  decide

/-- The storage cost of Gshare and of Tournament (R42). -/
theorem test_storageBits : storageBits .gshare ⟨2, 0, 0, 0, 0, [], 0⟩ = 10
    ∧ storageBits .tournament ⟨0, 2, 1, 2, 0, [], 0⟩ = 30 := by decide

/-- The output ports (R80, R241, R252). -/
theorem test_ports : takenPort { State.reset with rsp := some ⟨.none, some .taken⟩ } = some 1#1
    ∧ faultPort { State.reset with rsp := some ⟨.notReady, none⟩ } = some 0b10#2
    ∧ statusPorts stateF = (0b11#2, 0b001#3) := by decide

/-! ### Witnesses: hypotheses of the statements are met -/

theorem witness_DecodeOfEncode : (Instr.init .custom ⟨63, 0, 32, 1, 2, [5, 15], 8⟩).wellFormed = true := by decide

/-- One pair of words for each clause of the statement; the words differ in every ignored bit. -/
theorem witness_UnusedFields :
    (opField 0x8#37 = 0b00#2 ∧ opField 0x1FFFFFFFEC#37 = 0b00#2 ∧ modeField 0x8#37 = modeField 0x1FFFFFFFEC#37) ∧
    (opField 0x81#37 = 0b01#2 ∧ opField 0x9D#37 = 0b01#2 ∧ pcField 0x81#37 = pcField 0x9D#37) ∧
    (opField 0x86#37 = 0b10#2 ∧ opField 0x9E#37 = 0b10#2 ∧ pcField 0x86#37 = pcField 0x9E#37 ∧
      outcomeField 0x86#37 = outcomeField 0x9E#37) ∧
    (opField 0x3#37 = 0b11#2 ∧ opField 0x1FFFFFFFFF#37 = 0b11#2) := by decide

theorem witness_CounterSequences : (ctrBits .sn).toNat ≤ (ctrBits .st).toNat := by decide

/-- The boundary bits of a full register, and two sequences with the same last two outcomes. -/
theorem witness_HistoryHolds : (0 < 2 ∧ 1 < 2) ∧
    (let a : List Outcome := [.taken, .taken, .notTaken]
     let b : List Outcome := [.notTaken, .taken, .taken, .notTaken]
     2 ≤ a.length ∧ 2 ≤ b.length ∧ a.drop (a.length - 2) = b.drop (b.length - 2)) := by decide

theorem witness_XorIndex : (0x12345678#32).toNat % 2 ^ 4 = (0xABCD5678#32).toNat % 2 ^ 4 ∧ 0x9 % 2 ^ 4 = 0x19 % 2 ^ 4 := by
  decide

/-- Two tables, built in different orders, that have the same entries. -/
theorem witness_EqualEntries :
    let t := ctrWrite (ctrWrite (Table.fresh 4) 3 .st) 1 .wt
    let t' := ctrWrite (ctrWrite (ctrWrite (Table.fresh 4) 1 .sn) 3 .st) 1 .wt
    let h := lhtWrite (Table.fresh 2) 1 3
    t.wf .wn ∧ t'.wf .wn ∧ t.size = t'.size ∧ (∀ i, ctrRead t i = ctrRead t' i) ∧ h.wf 0 ∧
      ∀ i, lhtRead h i = lhtRead h i := by
  refine ⟨by decide, by decide, by decide, fun i => ?_, by decide, fun _ => rfl⟩
  have h : ctrWrite (ctrWrite (Table.fresh 4) 3 .st) 1 .wt
    = ctrWrite (ctrWrite (ctrWrite (Table.fresh 4) 1 .sn) 3 .st) 1 .wt := by decide
  rw [h]

/-- A FAULTED block to which a hard reset is presented, and one that is given a CLEANUP. -/
theorem witness_HardReset : ({ stateF with inputs := [.hardReset] } : State).inputs = .hardReset :: [] ∧
    (∃ t, step { stateF with inputs := [.present (.command 0x3#37 zeroPorts)] } = .next t) ∧
    stateF.life = .faulted ∧
    ∀ rest, ({ stateF with inputs := [.present (.command 0x3#37 zeroPorts)] } : State).inputs ≠ .hardReset :: rest :=
  ⟨rfl, ⟨_, rfl⟩, rfl, fun _ h => by cases h⟩

theorem witness_StepRuns : ({ State.reset with inputs := [.present (.counter 0b11#2)] } : State).inputs
    = .present (.counter 0b11#2) :: [] := rfl

theorem witness_Idle : State.reset.inputs = [] ∧
    ({ State.reset with inputs := [.idle, .hardReset] } : State).inputs = .idle :: [.hardReset] := ⟨rfl, rfl⟩

theorem witness_PlacedTableWord : decodeTableWord 40 0x3 = some .cleanup ∧ decodeTableWord 8 0x3 = some .ctrInc := by
  decide

/-- Each mode, with its widths at the ends of their range. -/
theorem witness_AcceptedInit : State.reset.life ≠ .faulted ∧ cfgLegal .static zeroCfg = true ∧
    cfgLegal .gshare ⟨32, 0, 0, 0, 0, [], 0⟩ = true ∧ cfgLegal .tournament ⟨0, 1, 32, 1, 0, [], 0⟩ = true ∧
    cfgLegal .custom ⟨1, 0, 0, 0, 2, [4, 8], 4⟩ = true := by decide

/-- The custom clause reaches a component: component 1 of two. -/
theorem witness_AcceptedInit_component : (freshComps ⟨1, 0, 0, 0, 2, [4, 8], 4⟩)[1]?
    = some (freshComp ⟨1, 0, 0, 0, 2, [4, 8], 4⟩ 1) := rfl

theorem witness_InitStandAlone : (after (.init .static zeroCfg) State.reset).map State.life = some .ready ∧
    (after (.init .gshare zeroCfg) State.reset).map State.life = some .faulted := by decide

theorem witness_IllegalConfiguration : State.reset.life ≠ .faulted ∧
    cfgLegal .gshare ⟨33, 0, 0, 0, 0, [], 0⟩ = false ∧ cfgLegal .tournament ⟨0, 2, 0, 2, 0, [], 0⟩ = false ∧
    ∃ u, exec .cleanup (raise .configError State.reset) = .next u := ⟨by decide, by decide, by decide, ⟨_, rfl⟩⟩

/-- For UnspecifiedStorageIsAbsentAndCellsStay: both clauses answer a next state. -/
theorem witness_UnspecifiedStorage : State.reset.life ≠ .faulted ∧ cfgLegal .gshare zeroCfg = false ∧
    (∃ t, exec (.init .gshare zeroCfg) State.reset = .next t) ∧ stateG11.life = .ready ∧
    ∃ t, exec .cleanup stateG11 = .next t := ⟨by decide, by decide, ⟨_, rfl⟩, rfl, ⟨_, rfl⟩⟩

theorem witness_InitWhileFaulted : stateF.life = .faulted := rfl

theorem witness_OutsideReady : State.reset.life ≠ .ready ∧ stateF.life ≠ .ready := by decide

theorem witness_Static : stateS.life = .ready ∧ stateS.mode = .static ∧ stateS.scheme = .static := ⟨rfl, rfl, rfl⟩

/-- For GsharePredictReadsTheIndexedCell and GshareTrainMovesOneCellAndShifts. -/
theorem witness_Gshare : stateG11.life = .ready ∧ stateG11.mode = .gshare ∧
    stateG11.scheme = .gshare ⟨ctrs [.wt, .wt, .wn, .st], 3⟩ := ⟨rfl, rfl, rfl⟩

/-- For TournamentPredictFollowsTheChoiceCell and TournamentTrainUpdatesFromThePreUpdateState. -/
theorem witness_Tournament : stateT2.life = .ready ∧ stateT2.mode = .tournament ∧
    stateT2.scheme = .tournament storageT2 := ⟨rfl, rfl, rfl⟩

theorem witness_Custom : stateU.life = .ready ∧ stateU.mode = .custom ∧ stateU.scheme = .custom storageU :=
  ⟨rfl, rfl, rfl⟩

/-- Two pcs that alias in each mode: 0x10 and 0x14 agree on their low two bits. -/
theorem witness_Alias : (0x10#32).toNat % 2 ^ stateG11.cfg.ghBits = (0x14#32).toNat % 2 ^ stateG11.cfg.ghBits ∧
    ((0x10#32).toNat % 2 ^ stateT2.cfg.tourHBits = (0x14#32).toNat % 2 ^ stateT2.cfg.tourHBits ∧
      (0x10#32).toNat % 2 ^ stateT2.cfg.tourPcBits = (0x14#32).toNat % 2 ^ stateT2.cfg.tourPcBits) ∧
    (0x10#32).toNat % 2 ^ stateU.cfg.ghBits = (0x14#32).toNat % 2 ^ stateU.cfg.ghBits := by decide

theorem witness_WithoutStorage :
    let s := readyState .gshare .absent
    s.life = .ready ∧ (s.mode = .static → s.scheme ≠ .static) ∧ (s.mode = .gshare → ∀ x, s.scheme ≠ .gshare x) ∧
      (s.mode = .tournament → ∀ r, s.scheme ≠ .tournament r) ∧ (s.mode = .custom → ∀ u, s.scheme ≠ .custom u) := by
  intro s
  refine ⟨rfl, fun h => ?_, fun _ x h => ?_, fun h => ?_, fun h => ?_⟩ <;> cases h

theorem witness_Cleanup : stateG11.life = .ready ∧ State.reset.life ≠ .ready := by decide

/-- Each part of the state changes somewhere, by an instruction that the statement names. -/
theorem witness_Writers : (after (.init .static zeroCfg) State.reset).map State.life = some .ready ∧
    (after (.init .gshare ⟨1, 0, 0, 0, 0, [], 0⟩) State.reset).map State.mode = some .gshare ∧
    (after (.init .gshare ⟨1, 0, 0, 0, 0, [], 0⟩) State.reset).map (fun t => t.cfg.ghBits) = some 1 ∧
    (after (.predict 0#32) State.reset).map State.fsr = some 0b010#3 ∧
    (after (.train 0#32 .notTaken) stateG11).map (fun t => decide (t.scheme = stateG11.scheme)) = some false ∧
    (after .ctrInc State.reset).map State.cell = some .wt ∧
    (after .hrShift1 State.reset).map State.hreg = some ⟨32, 1⟩ ∧
    (after .cleanup State.reset).map State.rsp = some (some ⟨.none, none⟩) ∧
    (after .cleanup stateG11).map State.free = some 1 := by decide

theorem witness_Responses : (Instr.predict 0#32).row.port = .cw37 ∧
    (∃ t, exec (.predict 0#32) State.reset = .next t) := ⟨rfl, ⟨_, rfl⟩⟩

theorem stateG11_meets_invariant : BlockInv stateG11 where
  legal _ := rfl
  storage _ := ⟨by decide, rfl, by decide⟩
  absent h := absurd rfl h
  hreg := ⟨by decide, by decide, by decide⟩
  inv_clear := by decide

theorem stateT2_meets_invariant : BlockInv stateT2 where
  legal _ := rfl
  storage _ := ⟨⟨by decide, rfl, by decide⟩, by decide, rfl, by decide, rfl, by decide, rfl, by decide⟩
  absent h := absurd rfl h
  hreg := ⟨by decide, by decide, by decide⟩
  inv_clear := by decide

/-- For EveryStepKeepsTheInvariant and NoStepStopsUnderTheInvariant: a state that meets the invariant, and its step. -/
theorem witness_Invariant : BlockInv { stateG11 with inputs := [.present (encode (.train 3#32 .notTaken))] } ∧
    ∃ t, step { stateG11 with inputs := [.present (encode (.train 3#32 .notTaken))] } = .next t :=
  ⟨⟨stateG11_meets_invariant.1, stateG11_meets_invariant.2, stateG11_meets_invariant.3, stateG11_meets_invariant.4,
    stateG11_meets_invariant.5⟩, ⟨_, rfl⟩⟩

theorem witness_FirstPrediction : State.reset.life ≠ .faulted ∧ cfgLegal .tournament ⟨0, 2, 1, 2, 0, [], 0⟩ = true := by
  decide

/-- For RunsFromInitForgetTheEarlierState and CustomModeSimulatesGshare. -/
theorem witness_EventRuns : State.reset.life ≠ .faulted ∧ stateG11.life ≠ .faulted ∧
    cfgLegal .gshare ⟨3, 0, 0, 0, 0, [], 0⟩ = true ∧
    (⟨3, 0, 0, 0, 0, [], 0⟩ : CfgRecord).ghBits = (⟨3, 0, 0, 0, 2, [5, 15], 8⟩ : CfgRecord).ghBits ∧
    ∀ i ∈ Asm.branch 0x00400005#32 .taken ++ Asm.branch 0x0040000A#32 .notTaken, isEvent i = true := by decide

/-- For CustomEventSimulatesGshareEvent: a Gshare and a Custom state with the same table and history, and both events. -/
theorem witness_EventSimulation : isEvent (.predict 0x3#32) = true ∧ isEvent (.train 0x3#32 .notTaken) = true ∧
    stateG11.life = .ready ∧ stateG11.mode = .gshare ∧ stateG11.scheme = .gshare storageU.base ∧
    stateU.life = .ready ∧ stateU.mode = .custom ∧ stateU.scheme = .custom ⟨storageU.base, storageU.comps⟩ ∧
    stateG11.cfg.ghBits = stateU.cfg.ghBits := ⟨rfl, rfl, rfl, rfl, rfl, rfl, rfl, rfl, rfl⟩

/-- For NotTakenBranchesLeaveTheChoiceTableFresh: the configuration of V-T6. -/
theorem witness_NotTakenBranches : State.reset.life ≠ .faulted ∧
    cfgLegal .tournament ⟨0, 2, 1, 2, 0, [], 0⟩ = true := by decide

theorem witness_PredictsHarmless : BlockInv stateG11 ∧ stateG11.life = .ready := ⟨stateG11_meets_invariant, rfl⟩

end Sys2Proof.Tests
end

