-- ==== Sys2Proof/Proofs/Encoding.lean ====
section
/-! The command decoder, one equation per op (R87): each names exactly the fields that the op uses (R89). -/
namespace Sys2Proof

section CommandByOp
variable {w : CmdWord} (side : CfgPorts)

theorem decode_command_of_opInit (h : opField w = 0b00#2) :
    decode (.command w side) = .init (modeOfBits (modeField w)) (cfgOfPorts side) := by
  simp [decode, decodeCommand, h]

theorem decode_command_of_opPredict (h : opField w = 0b01#2) :
    decode (.command w side) = .predict (pcField w) := by
  simp [decode, decodeCommand, h]

theorem decode_command_of_opTrain (h : opField w = 0b10#2) :
    decode (.command w side) = .train (pcField w) (outcomeOfBit (outcomeField w)) := by
  simp [decode, decodeCommand, h]

theorem decode_command_of_opCleanup (h : opField w = 0b11#2) :
    decode (.command w side) = .cleanup := by
  simp [decode, decodeCommand, h]

end CommandByOp

/-- The four ops of R87 are all the two-bit words. -/
theorem op_cases : ∀ op : BitVec 2, op = 0b00#2 ∨ op = 0b01#2 ∨ op = 0b10#2 ∨ op = 0b11#2 := by decide

/-- R89, its first sentence: there is no illegal command word. -/
theorem decode_command_total (w : CmdWord) (side : CfgPorts) :
    (∃ m cfg, decode (.command w side) = .init m cfg) ∨ (∃ pc, decode (.command w side) = .predict pc) ∨
    (∃ pc o, decode (.command w side) = .train pc o) ∨ decode (.command w side) = .cleanup := by
  obtain hop | hop | hop | hop := op_cases (opField w)
  · exact .inl ⟨_, _, decode_command_of_opInit side hop⟩
  · exact .inr (.inl ⟨_, decode_command_of_opPredict side hop⟩)
  · exact .inr (.inr (.inl ⟨_, _, decode_command_of_opTrain side hop⟩))
  · exact .inr (.inr (.inr (decode_command_of_opCleanup side hop)))

/-- Settles O3: both words have the same op, and that op's equation mentions only the fields that agree. -/
theorem unusedFieldsDoNotChangeDecoding : Obligations.UnusedFieldsDoNotChangeDecoding := by
  refine ⟨decode_command_total, fun w w' side side' hop => ⟨?init, ?predict, ?train, ?cleanup⟩⟩
  case init =>
    intro h hmode
    rw [decode_command_of_opInit side h, decode_command_of_opInit side (hop ▸ h), hmode]
  case predict =>
    intro h hpc
    rw [decode_command_of_opPredict side h, decode_command_of_opPredict side' (hop ▸ h), hpc]
  case train =>
    intro h hpc hout
    rw [decode_command_of_opTrain side h, decode_command_of_opTrain side' (hop ▸ h), hpc, hout]
  case cleanup =>
    intro h
    rw [decode_command_of_opCleanup side h, decode_command_of_opCleanup side' (hop ▸ h)]

namespace Asm

theorem rep_zero (body : List Instr) : rep 0 body = [] := rfl

theorem rep_succ (n : Nat) (body : List Instr) : rep (n + 1) body = body ++ rep n body := by
  simp only [rep, List.replicate_succ, List.flatten_cons]

end Asm

/-- Settles O7: `branch` by its definition, `rep` by its two equations. -/
theorem pseudoCommandsExpand : Obligations.PseudoCommandsExpand :=
  ⟨fun _ _ => rfl, Asm.rep_zero, Asm.rep_succ⟩

end Sys2Proof
end

/-! The two readings of a counter cell (R104, R105): each is the upper half of the four-point scale, which is bit 1 of the
cell's encoding (R81). -/
namespace Sys2Proof.Machine

theorem ctrPred_eq_taken_iff (q : CtrState) : ctrPred q = .taken ↔ q = .wt ∨ q = .st := by
  cases q <;> decide

/-- R105: the choice reading is the same bit as the prediction. -/
theorem ctrSelLocal_iff_ctrPred (q : CtrState) : ctrSelLocal q = true ↔ ctrPred q = .taken := by
  cases q <;> decide

theorem ctrBits_bit1_iff (q : CtrState) : (ctrBits q).getLsbD 1 = true ↔ q = .wt ∨ q = .st := by
  cases q <;> decide

theorem ctrPred_eq_taken_iff_bit1 (q : CtrState) : ctrPred q = .taken ↔ (ctrBits q).getLsbD 1 = true :=
  (ctrPred_eq_taken_iff q).trans (ctrBits_bit1_iff q).symm

end Sys2Proof.Machine

namespace Sys2Proof
open Machine

/-- Settles O10: the transitions are the model's table; the choice reading inherits both forms from the prediction. -/
theorem counterCellTableAndReadings : Obligations.CounterCellTableAndReadings :=
  ⟨rfl, rfl, rfl, rfl, rfl, rfl, rfl, rfl, fun q =>
    have hsel := ctrSelLocal_iff_ctrPred q
    ⟨ctrPred_eq_taken_iff q, ctrPred_eq_taken_iff_bit1 q,
      hsel.trans (ctrPred_eq_taken_iff q), hsel.trans (ctrPred_eq_taken_iff_bit1 q)⟩⟩

end Sys2Proof

/-! The history shift (R116): the outcome becomes the new lowest bit, and the sum that results is reduced modulo `2^W`. -/
namespace Sys2Proof.Machine

theorem outcomeBit_toNat (o : Outcome) : (outcomeBit o).toNat = (decide (o = .taken)).toNat := by
  cases o <;> rfl

theorem hrShift_eq_mod (w h : Nat) (o : Outcome) : hrShift w h o = (2 * h + (outcomeBit o).toNat) % 2 ^ w := by
  have hor : h <<< 1 ||| (outcomeBit o).toNat = h <<< 1 + (outcomeBit o).toNat :=
    (Nat.shiftLeft_add_eq_or_of_lt (outcomeBit o).isLt h).symm
  rw [hrShift, and_mask, hor, Nat.shiftLeft_eq, pow_one, Nat.mul_comm h]

theorem hrShift_eq_bit_mod (w h : Nat) (o : Outcome) : hrShift w h o = Nat.bit (decide (o = .taken)) h % 2 ^ w := by
  rw [hrShift_eq_mod, outcomeBit_toNat, Nat.bit_val]

theorem testBit_hrShift_zero {w : Nat} (hw : 0 < w) (h : Nat) (o : Outcome) :
    (hrShift w h o).testBit 0 = decide (o = .taken) := by
  rw [hrShift_eq_bit_mod, Nat.testBit_mod_two_pow, Nat.testBit_bit_zero, decide_eq_true hw, Bool.true_and]

theorem testBit_hrShift_succ {w i : Nat} (hi : i + 1 < w) (h : Nat) (o : Outcome) :
    (hrShift w h o).testBit (i + 1) = h.testBit i := by
  rw [hrShift_eq_bit_mod, Nat.testBit_mod_two_pow, Nat.testBit_bit_succ, decide_eq_true hi, Bool.true_and]

/-- R117: a register has no bit from `W` up. -/
theorem testBit_hrShift_of_width_le {w i : Nat} (hi : w ≤ i) (h : Nat) (o : Outcome) :
    (hrShift w h o).testBit i = false :=
  Nat.testBit_lt_two_pow ((hrShift_lt w h o).trans_le (Nat.pow_le_pow_right Nat.two_pos hi))

end Sys2Proof.Machine

namespace Sys2Proof
open Machine

/-- Settles O12: the bits above the register, bit 0 and the moved bits are one lemma each. -/
theorem historyShiftMovesEveryBitUp : Obligations.HistoryShiftMovesEveryBitUp := by
  refine fun w h o => ⟨hrShift_eq_mod w h o, fun i => ?_⟩
  split_ifs with hle hzero
  · exact testBit_hrShift_of_width_le hle h o
  · subst hzero
    exact testBit_hrShift_zero (Nat.lt_of_not_le hle) h o
  · obtain ⟨j, rfl⟩ := Nat.exists_eq_succ_of_ne_zero hzero
    exact testBit_hrShift_succ (Nat.lt_of_not_le hle) h o

end Sys2Proof

/-! The XOR index (R131) in its two forms, and what an event in READY comes to once the active mode's storage answers
(R216, R218). -/
namespace Sys2Proof.Machine

theorem xpIndex_eq_xor_masked (pc : Pc) (h k : Nat) :
    xpIndex pc h k = (pc.toNat &&& (2 ^ k - 1)) ^^^ (h &&& (2 ^ k - 1)) := rfl

/-- Masking both operands or the result gives the same index (R131). -/
theorem xpIndex_eq_xor_mod (pc : Pc) (h k : Nat) : xpIndex pc h k = (pc.toNat ^^^ h) % 2 ^ k := by
  rw [xpIndex, and_mask, and_mask, Nat.xor_mod_two_pow]

/-- R131: the bits of both operands from `k` up do not reach the index. -/
theorem xpIndex_congr {pc pc' : Pc} {h h' k : Nat} (hpc : pc.toNat % 2 ^ k = pc'.toNat % 2 ^ k)
    (hh : h % 2 ^ k = h' % 2 ^ k) : xpIndex pc h k = xpIndex pc' h' k := by
  simp only [xpIndex, and_mask, hpc, hh]

section Ready
variable {s : State}

theorem exec_predict_of_ready {pc : Pc} {p : Outcome} (hlife : s.life = .ready)
    (hp : schemePredict s.mode s.cfg s.scheme pc = .next p) :
    exec (.predict pc) s = .next (accept (some p) s) := by
  simp only [exec, execPredict, hlife, hp, if_true]

theorem exec_train_of_ready {pc : Pc} {o : Outcome} {sch : Scheme} (hlife : s.life = .ready)
    (ht : schemeTrain s.mode s.cfg s.scheme pc o = .next sch) :
    exec (.train pc o) s = .next (accept none { s with scheme := sch }) := by
  simp only [exec, execTrain, hlife, ht, if_true]

end Ready

section Gshare
variable {s : State} {x : XP} (hmode : s.mode = .gshare) (hscheme : s.scheme = .gshare x)
include hmode hscheme

theorem schemePredict_of_gshare (pc : Pc) :
    schemePredict s.mode s.cfg s.scheme pc = .next (xpPredict s.cfg.ghBits x pc) := by
  rw [hmode, hscheme]
  rfl

theorem schemeTrain_of_gshare (pc : Pc) (o : Outcome) :
    schemeTrain s.mode s.cfg s.scheme pc o = .next (.gshare (xpTrain s.cfg.ghBits x pc o)) := by
  rw [hmode, hscheme]
  rfl

end Gshare

end Sys2Proof.Machine

namespace Sys2Proof
open Machine

/-- Settles O15: the definition, its form modulo `2^k`, and the bound and the congruence of the index. -/
theorem xorIndexIsInRangeAndUsesLowBitsOnly : Obligations.XorIndexIsInRangeAndUsesLowBitsOnly :=
  fun pc h k => ⟨xpIndex_eq_xor_masked pc h k, xpIndex_eq_xor_mod pc h k, xpIndex_lt pc h k,
    fun _ _ hpc hh => xpIndex_congr hpc hh⟩

/-- Settles O28: READY in Gshare mode answers the prediction of the XOR-indexed primitive (R132). -/
theorem gsharePredictReadsTheIndexedCell : Obligations.GsharePredictReadsTheIndexedCell :=
  fun _ _ pc hlife hmode hscheme => exec_predict_of_ready hlife (schemePredict_of_gshare hmode hscheme pc)

/-- Settles O29: the next storage is that of `xpTrain` (R133), whose cells and history are known by their laws. -/
theorem gshareTrainMovesOneCellAndShifts : Obligations.GshareTrainMovesOneCellAndShifts :=
  fun s x pc o hlife hmode hscheme =>
    ⟨xpTrain s.cfg.ghBits x pc o,
      exec_train_of_ready hlife (schemeTrain_of_gshare hmode hscheme pc o),
      xpTrain_size,
      xpTrain_hist.trans (hrShift_eq_mod s.cfg.ghBits x.hist o),
      xpTrain_read⟩

end Sys2Proof

/-! Tournament mode: which sub-prediction the choice cell selects (R157, R158), and what TRAIN leaves in each table and
history register (R160 to R164), every index being that of the state before the command. -/
namespace Sys2Proof.Machine

/-- R105: a choice cell selects the global side exactly in the lower half of the scale. -/
theorem ctrSelLocal_eq_false_iff (q : CtrState) : ctrSelLocal q = false ↔ q = .sn ∨ q = .wn := by
  cases q <;> decide

/-- A counter table after one of its cells has moved by `ctr_next` (R62, R102). -/
theorem ctrRead_ctrWrite_ctrNext (t : Table CtrState) (i j : Nat) (o : Outcome) :
    ctrRead (ctrWrite t i (ctrNext (ctrRead t i) o)) j =
      if j = i then ctrNext (ctrRead t j) o else ctrRead t j := by
  rw [ctrRead, Table.read_write]
  split
  · subst j; rfl
  · rfl

/-- The choice cell moves only when the sub-predictions disagree, and no other choice cell moves (R160). -/
theorem ctrRead_trTrainChoice (c : Table CtrState) (ci j : Nat) (gp lp o : Outcome) :
    ctrRead (trTrainChoice c ci gp lp o) j =
      if j = ci ∧ gp ≠ lp then ctrNext (ctrRead c j) (if lp = o then .taken else .notTaken)
      else ctrRead c j := by
  by_cases hagree : gp = lp
  · simp [trTrainChoice, hagree]
  · simp [trTrainChoice, hagree, ctrRead_ctrWrite_ctrNext]

section Tables
variable (cfg : CfgRecord) (t : TournamentState) (pc : Pc) (o : Outcome)

theorem trPredict_eq_ite_global :
    trPredict cfg t pc =
      if ctrRead t.ctbl (trChoiceAt cfg t) = .sn ∨ ctrRead t.ctbl (trChoiceAt cfg t) = .wn
      then trGlobalPred cfg t pc else trLocalPred cfg t pc := by
  simp only [← ctrSelLocal_eq_false_iff, trPredict]
  cases ctrSelLocal (ctrRead t.ctbl (trChoiceAt cfg t)) <;> rfl

theorem ctrRead_trTrain_ptbl (j : Nat) :
    ctrRead (trTrain cfg t pc o).ptbl j =
      if j = trPattern cfg t pc then ctrNext (ctrRead t.ptbl j) o else ctrRead t.ptbl j :=
  ctrRead_ctrWrite_ctrNext t.ptbl (trPattern cfg t pc) j o

/-- The pc's local history is shifted from its masked value, which was the pattern index (R162). -/
theorem lhtRead_trTrain_lht (j : Nat) :
    lhtRead (trTrain cfg t pc o).lht j =
      if j = localIndex pc cfg.tourPcBits
      then (2 * trPattern cfg t pc + (outcomeBit o).toNat) % 2 ^ cfg.tourLHistory
      else lhtRead t.lht j := by
  rw [← hrShift_eq_mod]
  exact Table.read_write

@[simp] theorem trTrain_ptbl_size : (trTrain cfg t pc o).ptbl.size = t.ptbl.size := rfl
@[simp] theorem trTrain_lht_size : (trTrain cfg t pc o).lht.size = t.lht.size := rfl

end Tables

section Tournament
variable {s : State} {r : TournamentState} (hmode : s.mode = .tournament) (hscheme : s.scheme = .tournament r)
include hmode hscheme

theorem schemePredict_of_tournament (pc : Pc) :
    schemePredict s.mode s.cfg s.scheme pc = .next (trPredict s.cfg r pc) := by
  rw [hmode, hscheme]
  rfl

theorem schemeTrain_of_tournament (pc : Pc) (o : Outcome) :
    schemeTrain s.mode s.cfg s.scheme pc o = .next (.tournament (trTrain s.cfg r pc o)) := by
  rw [hmode, hscheme]
  rfl

end Tournament

end Sys2Proof.Machine

namespace Sys2Proof
open Machine

/-- Settles O30: READY in Tournament mode answers `trPredict`, which asks the choice cell. -/
theorem tournamentPredictFollowsTheChoiceCell : Obligations.TournamentPredictFollowsTheChoiceCell := by
  intro s r pc hlife hmode hscheme
  have hpredict := exec_predict_of_ready hlife (schemePredict_of_tournament hmode hscheme pc)
  rw [trPredict_eq_ite_global] at hpredict
  exact hpredict

/-- Settles O31: the next storage is that of `trTrain`, whose tables and histories are known one by one. -/
theorem tournamentTrainUpdatesFromThePreUpdateState : Obligations.TournamentTrainUpdatesFromThePreUpdateState := by
  intro s r pc o hlife hmode hscheme
  refine ⟨trTrain s.cfg r pc o, exec_train_of_ready hlife (schemeTrain_of_tournament hmode hscheme pc o),
    ?choice, ?globalCell, ?globalHist, ?pattern, ?localHist, ?sizes⟩
  case choice => exact fun j => ctrRead_trTrainChoice r.ctbl _ j _ _ o
  case globalCell => exact xpTrain_read
  case globalHist => exact xpTrain_hist.trans (hrShift_eq_mod _ _ o)
  case pattern => exact ctrRead_trTrain_ptbl s.cfg r pc o
  case localHist => exact lhtRead_trTrain_lht s.cfg r pc o
  case sizes => exact ⟨trTrainChoice_size, xpTrain_size, trTrain_ptbl_size s.cfg r pc o, trTrain_lht_size s.cfg r pc o⟩

end Sys2Proof

/-! Custom mode: an event reaches the base predictor only, and the tagged components are carried along (R183, R184).
The storage answers because `Config.tageWired` is false; the two equations below are by computation on that value. -/
namespace Sys2Proof.Machine

section Custom
variable {s : State} {u : CustomState} (hmode : s.mode = .custom) (hscheme : s.scheme = .custom u)
include hmode hscheme

theorem schemePredict_of_custom (pc : Pc) :
    schemePredict s.mode s.cfg s.scheme pc = .next (xpPredict s.cfg.ghBits u.base pc) := by
  rw [hmode, hscheme]
  rfl

theorem schemeTrain_of_custom (pc : Pc) (o : Outcome) :
    schemeTrain s.mode s.cfg s.scheme pc o =
      .next (.custom ⟨xpTrain s.cfg.ghBits u.base pc o, u.comps⟩) := by
  rw [hmode, hscheme]
  rfl

end Custom

end Sys2Proof.Machine

namespace Sys2Proof
open Machine

/-- Settles O32: the base predictor answers and is trained as the XOR-indexed primitive (R132, R133), in a storage whose
components are those of the state before the command. -/
theorem customPredictsAndTrainsTheBaseAlone : Obligations.CustomPredictsAndTrainsTheBaseAlone := by
  intro s u pc o hlife hmode hscheme
  refine ⟨exec_predict_of_ready hlife (schemePredict_of_custom hmode hscheme pc),
    xpTrain s.cfg.ghBits u.base pc o,
    exec_train_of_ready hlife (schemeTrain_of_custom hmode hscheme pc o), ?size, ?hist, ?cells⟩
  case size => exact xpTrain_size
  case hist => exact xpTrain_hist.trans (hrShift_eq_mod s.cfg.ghBits u.base.hist o)
  case cells => exact xpTrain_read

end Sys2Proof

/-! The facade (spec/45_facade.md): what each command comes to in the lifecycle states that decide it. -/
namespace Sys2Proof.Machine

section Commands
variable {s t : State} {m : Mode} {cfg : CfgRecord}

theorem widthLegal_iff (k : Nat) : widthLegal k = true ↔ 1 ≤ k ∧ k ≤ 32 := by
  rw [widthLegal, Bool.and_eq_true, decide_eq_true_iff, decide_eq_true_iff]

/-- R249: the lifecycle check comes before the configuration is looked at. -/
theorem exec_init_of_faulted (hlife : s.life = .faulted) : exec (.init m cfg) s = .next (raise .notReady s) := by
  simp only [exec, execInit, hlife, if_true]

theorem exec_init_of_illegal (hlife : s.life ≠ .faulted) (hcfg : cfgLegal m cfg = false) :
    exec (.init m cfg) s = .next (raise .configError s) := by
  simp only [exec, execInit, hlife, hcfg, if_false, Bool.false_eq_true]

theorem exec_predict_of_not_ready (hlife : s.life ≠ .ready) (pc : Pc) :
    exec (.predict pc) s = .next (raise .notReady s) := by
  simp only [exec, execPredict, hlife, if_false]

theorem exec_train_of_not_ready (hlife : s.life ≠ .ready) (pc : Pc) (o : Outcome) :
    exec (.train pc o) s = .next (raise .notReady s) := by
  simp only [exec, execTrain, hlife, if_false]

theorem exec_cleanup_of_ready (hlife : s.life = .ready) : exec .cleanup s = .next (accept none (release s)) := by
  simp only [exec, execCleanup, hlife, if_true]

theorem exec_cleanup_of_not_ready (hlife : s.life ≠ .ready) : exec .cleanup s = .next (accept none s) := by
  simp only [exec, execCleanup, hlife, if_false]

/-- R247: no instruction leads out of FAULTED. There INIT and the events are rejected, CLEANUP is a no-operation, and a
cell control does not touch `life`. -/
theorem exec_keeps_faulted {i : Instr} (hexec : exec i s = .next t) (hlife : s.life = .faulted) :
    t.life = .faulted := by
  have hnot : s.life ≠ .ready := by rw [hlife]; decide
  cases i with
  | init m cfg => rw [exec_init_of_faulted hlife] at hexec; cases hexec; exact hlife
  | predict pc => rw [exec_predict_of_not_ready hnot] at hexec; cases hexec; exact hlife
  | train pc o => rw [exec_train_of_not_ready hnot] at hexec; cases hexec; exact hlife
  | cleanup => rw [exec_cleanup_of_not_ready hnot] at hexec; cases hexec; exact hlife
  | ctrHold | ctrDec | ctrInc | hrHold | hrShift0 | hrShift1 => cases hexec; exact hlife

end Commands

section Static
variable {s : State} (hmode : s.mode = .static) (hscheme : s.scheme = .static)
include hmode hscheme

theorem schemePredict_of_static (pc : Pc) : schemePredict s.mode s.cfg s.scheme pc = .next .taken := by
  rw [hmode, hscheme]
  rfl

/-- R220: the storage that TRAIN leaves is the storage it found. -/
theorem schemeTrain_of_static (pc : Pc) (o : Outcome) :
    schemeTrain s.mode s.cfg s.scheme pc o = .next s.scheme := by
  rw [hmode, hscheme]
  rfl

end Static

end Sys2Proof.Machine

namespace Sys2Proof
open Machine

/-- Settles O21: each checked field is one width, and the fields of Tournament are joined by "and". -/
theorem legalConfigurationsPerMode : Obligations.LegalConfigurationsPerMode := by
  intro cfg
  refine ⟨rfl, widthLegal_iff cfg.ghBits, ?tournament, widthLegal_iff cfg.ghBits⟩
  case tournament =>
    simp only [cfgLegal, Bool.and_eq_true, widthLegal_iff, and_assoc]

/-- Settles O24: the next state is that of `raise`, and FAULTED is kept by every instruction. -/
theorem illegalConfigurationRaisesConfigError : Obligations.IllegalConfigurationRaisesConfigError :=
  fun _ _ s hlife hcfg =>
    have hfaulted : (raise .configError s).life = .faulted := raise_life .configError s
    ⟨raise .configError s, exec_init_of_illegal hlife hcfg, hfaulted, raise_fsr .configError s,
      raise_rsp .configError s, raise_inputs .configError s,
      fun _ _ hexec => exec_keeps_faulted hexec hfaulted⟩

/-- Settles O25: the rejection is NotReady's `raise`, whatever the mode and the record. -/
theorem initWhileFaultedIsRejected : Obligations.InitWhileFaultedIsRejected :=
  fun _ _ s hlife => (exec_init_of_faulted hlife).trans (congrArg _ (raise_notReady s))

/-- Settles O26: both events are rejected by the same `raise`. -/
theorem predictAndTrainOutsideReadyAreRejected : Obligations.PredictAndTrainOutsideReadyAreRejected :=
  fun s pc o hlife =>
    have hraise := congrArg Host.Outcome.next (raise_notReady s)
    ⟨(exec_predict_of_not_ready hlife pc).trans hraise, (exec_train_of_not_ready hlife pc o).trans hraise⟩

/-- Settles O27: READY in Static mode answers Taken, and TRAIN writes back the storage it found. -/
theorem staticPredictsTakenAndNeverLearns : Obligations.StaticPredictsTakenAndNeverLearns :=
  fun _ pc o hlife hmode hscheme =>
    ⟨exec_predict_of_ready hlife (schemePredict_of_static hmode hscheme pc),
      exec_train_of_ready hlife (schemeTrain_of_static hmode hscheme pc o)⟩

/-- Settles O35: what CLEANUP leaves is RELEASED, so it is not READY and both events are rejected from there. -/
theorem cleanupFromReadyEntersReleased : Obligations.CleanupFromReadyEntersReleased := by
  intro s hlife
  have hreleased : (accept none (release s)).life = .released := by rw [accept_life, release_life]
  have hnot : (accept none (release s)).life ≠ .ready := by rw [hreleased]; decide
  exact ⟨accept none (release s), exec_cleanup_of_ready hlife, hreleased,
    by rw [accept_fsr, release_fsr], accept_rsp none _, by rw [accept_inputs, release_inputs],
    fun pc => ⟨_, exec_predict_of_not_ready hnot pc, raise_rsp .notReady _⟩,
    fun pc o => ⟨_, exec_train_of_not_ready hnot pc o, raise_rsp .notReady _⟩⟩

/-- Settles O37: outside READY only the response is written. -/
theorem cleanupOutsideReadyDoesNothing : Obligations.CleanupOutsideReadyDoesNothing :=
  fun _ hlife => exec_cleanup_of_not_ready hlife

end Sys2Proof

/-! The sticky status register (R26, R270): a fault only adds bits to `fsr`, so a command never clears one. With
`exec_keeps_faulted` for `life`, what is left for the hard reset is the rest of `step`. -/
namespace Sys2Proof.Machine

/-- R26: the bits that were set before a fault are still set after it. -/
theorem fsrSet_and_self (c : FaultCode) (f : BitVec 3) : fsrSet c f &&& f = f := by
  ext i
  rw [fsrSet, BitVec.getElem_and, BitVec.getElem_or]
  cases f[i] <;> simp

theorem raise_keeps_fsr_bits (c : FaultCode) (s : State) : (raise c s).fsr &&& s.fsr = s.fsr := by
  rw [raise_fsr, fsrSet_and_self]

section Sticky
variable {s t : State}

theorem and_eq_right_of_fsr_eq (h : t.fsr = s.fsr) : t.fsr &&& s.fsr = s.fsr := by
  rw [h, BitVec.and_self]

/-- R26: an instruction that is rejected adds a bit to `fsr`, and every other one leaves `fsr` as it was. -/
theorem exec_keeps_fsr_bits {i : Instr} (hexec : exec i s = .next t) : t.fsr &&& s.fsr = s.fsr := by
  cases i with
  | init m cfg =>
    obtain ⟨-, rfl⟩ | ⟨-, -, rfl⟩ | ⟨-, -, rfl⟩ := execInit_cases hexec
    · exact raise_keeps_fsr_bits .notReady s
    · exact and_eq_right_of_fsr_eq rfl
    · exact raise_keeps_fsr_bits .configError s
  | predict pc =>
    obtain ⟨-, o, -, rfl⟩ | ⟨-, rfl⟩ := execPredict_cases hexec
    · exact and_eq_right_of_fsr_eq rfl
    · exact raise_keeps_fsr_bits .notReady s
  | train pc o =>
    obtain ⟨-, sch, -, rfl⟩ | ⟨-, rfl⟩ := execTrain_cases hexec
    · exact and_eq_right_of_fsr_eq rfl
    · exact raise_keeps_fsr_bits .notReady s
  | cleanup =>
    obtain ⟨-, rfl⟩ | ⟨-, rfl⟩ := execCleanup_cases hexec
    · exact and_eq_right_of_fsr_eq rfl
    · exact and_eq_right_of_fsr_eq rfl
  | ctrHold | ctrDec | ctrInc | hrHold | hrShift0 | hrShift1 => cases hexec; exact and_eq_right_of_fsr_eq rfl

theorem step_of_hardReset {rest : List Input} (hinputs : s.inputs = .hardReset :: rest) :
    step s = .next (resetCycle rest s) := by
  simp only [step, hinputs]

/-- R270: without a hard reset the cycle is idle or runs an instruction, from a state whose `life` and `fsr` are those
of `s`. -/
theorem step_keeps_faulted_and_fsr_bits (hstep : step s = .next t)
    (hinputs : ∀ rest, s.inputs ≠ .hardReset :: rest) :
    (s.life = .faulted → t.life = .faulted) ∧ t.fsr &&& s.fsr = s.fsr := by
  obtain ⟨rest, -, rfl⟩ | ⟨rest, hreset, -⟩ | ⟨f, rest, -, hexec⟩ := step_cases hstep
  · exact ⟨id, and_eq_right_of_fsr_eq (beginCycle_fsr rest s)⟩
  · exact absurd hreset (hinputs rest)
  · have hlife := exec_keeps_faulted hexec
    have hfsr := exec_keeps_fsr_bits hexec
    rw [beginCycle_life] at hlife
    rw [beginCycle_fsr] at hfsr
    exact ⟨hlife, hfsr⟩

end Sticky

end Sys2Proof.Machine

namespace Sys2Proof
open Machine

/-- Settles O17: a reset cycle ends in the state of `hardReset`, and every other step keeps FAULTED and the set bits. -/
theorem hardResetAloneLeavesFaultedAndClearsFsr : Obligations.HardResetAloneLeavesFaultedAndClearsFsr :=
  ⟨fun s rest hinputs => ⟨resetCycle rest s, step_of_hardReset hinputs, hardReset_life _, hardReset_fsr _,
      (hardReset_inputs _).trans (beginCycle_inputs rest s)⟩,
    fun _ _ => step_keeps_faulted_and_fsr_bits⟩

end Sys2Proof

/-! Decoding what was encoded (R86 to R92): a command word put together from fields decodes by its op alone, and the ports
that carry a record give it back. -/
namespace Sys2Proof

section CommandWords
variable (pc : Pc) (m : BitVec 2) (o : BitVec 1) (side : CfgPorts)

theorem decode_commandWord_init :
    decode (.command (commandWord pc m o 0b00#2) side) = .init (modeOfBits m) (cfgOfPorts side) := by
  rw [decode_command_of_opInit side (opField_commandWord ..), modeField_commandWord]

theorem decode_commandWord_predict :
    decode (.command (commandWord pc m o 0b01#2) side) = .predict pc := by
  rw [decode_command_of_opPredict side (opField_commandWord ..), pcField_commandWord]

theorem decode_commandWord_train :
    decode (.command (commandWord pc m o 0b10#2) side) = .train pc (outcomeOfBit o) := by
  rw [decode_command_of_opTrain side (opField_commandWord ..), pcField_commandWord, outcomeField_commandWord]

theorem decode_commandWord_cleanup : decode (.command (commandWord pc m o 0b11#2) side) = .cleanup :=
  decode_command_of_opCleanup side (opField_commandWord ..)

end CommandWords

theorem CfgRecord.wellFormed_iff (cfg : CfgRecord) :
    cfg.wellFormed = true ↔ cfg.ghBits < 64 ∧ cfg.tourHBits < 64 ∧ cfg.tourPcBits < 64 ∧ cfg.tourLHistory < 64 ∧
      cfg.tageHistLen.length = cfg.tageCompNum := by
  simp only [CfgRecord.wellFormed, Bool.and_eq_true, decide_eq_true_iff, and_assoc]

/-- Whatever the ports carry fits them (R25): the four widths are of 6 bits, and the lengths are cut and padded. -/
theorem cfgOfPorts_wellFormed (p : CfgPorts) : (cfgOfPorts p).wellFormed = true := by
  have hlen : (cfgOfPorts p).tageHistLen.length = p.ncomp := by simp only [cfgOfPorts, List.length_map, List.length_range]
  exact (CfgRecord.wellFormed_iff _).2 ⟨p.gh.isLt, p.th.isLt, p.pcb.isLt, p.lh.isLt, hlen⟩

/-- A 6-bit port carries a width below 64 as it is. -/
theorem toNat_ofNat_six {n : Nat} (h : n < 64) : (BitVec.ofNat 6 n).toNat = n := by
  rw [BitVec.toNat_ofNat, Nat.mod_eq_of_lt h]

theorem map_getD_range (l : List Nat) : (List.range l.length).map (fun c => l.getD c 0) = l := by
  refine List.ext_getElem (by simp) fun i h _ => ?_
  have hi : i < l.length := by simpa using h
  simp [hi]

theorem cfgOfPorts_portsOfCfg {cfg : CfgRecord} (h : cfg.wellFormed = true) : cfgOfPorts (portsOfCfg cfg) = cfg := by
  obtain ⟨hgh, hth, hpcb, hlh, hlen⟩ := (CfgRecord.wellFormed_iff cfg).1 h
  have hmap := map_getD_range cfg.tageHistLen
  rw [hlen] at hmap
  simp only [cfgOfPorts, portsOfCfg, toNat_ofNat_six, hgh, hth, hpcb, hlh, hmap]

/-- Settles O1: each command's word gives its fields back, INIT's ports its record; the cell controls are constants. -/
theorem decodeOfEncodeGivesTheInstruction : Obligations.DecodeOfEncodeGivesTheInstruction := by
  intro i hwf
  cases i with
  | init m cfg =>
    rw [encode, decode_commandWord_init, modeOfBits_modeBits, cfgOfPorts_portsOfCfg hwf]
  | predict pc => exact decode_commandWord_predict ..
  | train pc o => rw [encode, decode_commandWord_train, outcomeOfBit_outcomeBit]
  | cleanup => exact decode_commandWord_cleanup ..
  | ctrHold | ctrDec | ctrInc | hrHold | hrShift0 | hrShift1 => rfl

/-! ### The row of a frame -/

section Rows
open Laws.RowWord (command_inRow)

theorem command_in_row_of_decode (w : CmdWord) (side : CfgPorts) :
    (Frame.command w side).inRow (decode (.command w side)).row = true ∧
      (decode (.command w side)).wellFormed = true := by
  obtain hop | hop | hop | hop := op_cases (opField w)
  · rw [decode_command_of_opInit side hop]
    exact ⟨command_inRow (congrArg BitVec.toNat hop), cfgOfPorts_wellFormed side⟩
  · rw [decode_command_of_opPredict side hop]
    exact ⟨command_inRow (congrArg BitVec.toNat hop), rfl⟩
  · rw [decode_command_of_opTrain side hop]
    exact ⟨command_inRow (congrArg BitVec.toNat hop), rfl⟩
  · rw [decode_command_of_opCleanup side hop]
    exact ⟨command_inRow (congrArg BitVec.toNat hop), rfl⟩

end Rows

theorem counter_in_row_of_decode : ∀ c : CellCtl, (Frame.counter c).inRow (decode (.counter c)).row = true ∧
    (decode (.counter c)).wellFormed = true := by decide

theorem history_in_row_of_decode : ∀ c : CellCtl, (Frame.history c).inRow (decode (.history c)).row = true ∧
    (decode (.history c)).wellFormed = true := by decide

/-- Settles O2: by the control input on which the frame stands. -/
theorem everyFrameDecodesIntoItsOwnRow : Obligations.EveryFrameDecodesIntoItsOwnRow
  | .command w side => command_in_row_of_decode w side
  | .counter c => counter_in_row_of_decode c
  | .history c => history_in_row_of_decode c

/-! ### Worked words -/

/-- Settles O4: each worked word is put together from the fields written beside it (R95). -/
theorem workedCommandWordsDecode : Obligations.WorkedCommandWordsDecode :=
  ⟨decode_commandWord_init 0#32 0b01#2 0#1, decode_commandWord_init 0#32 0b10#2 0#1,
    decode_commandWord_init 0#32 0b11#2 0#1, decode_commandWord_init 0#32 0b00#2 0#1,
    decode_commandWord_predict 0x0#32 0b00#2 0#1, decode_commandWord_predict 0x00400005#32 0b00#2 0#1,
    decode_commandWord_train 0x00400005#32 0b00#2 1#1, decode_commandWord_train 0x00400005#32 0b00#2 0#1,
    decode_commandWord_train 0xFFFFFFFF#32 0b00#2 1#1, decode_commandWord_cleanup 0#32 0b00#2 0#1⟩

/-- Settles O5: R91 and R92, word by word. -/
theorem cellControlWordsDecode : Obligations.CellControlWordsDecode :=
  ⟨rfl, rfl, rfl, rfl, rfl, rfl, rfl, rfl⟩

/-! ### The byte container -/

theorem length_bytesOfNat (n w : Nat) : (bytesOfNat n w).length = n := by
  induction n generalizing w with
  | zero => rfl
  | succ n ih => rw [bytesOfNat, List.length_cons, ih]

/-- The bytes hold the number's low `8 n` bits. -/
theorem natOfBytes_bytesOfNat (n w : Nat) : natOfBytes (bytesOfNat n w) = w % 256 ^ n := by
  induction n generalizing w with
  | zero => rw [pow_zero, Nat.mod_one]; rfl
  | succ n ih => rw [bytesOfNat, natOfBytes, ih, BitVec.toNat_ofNat, Nat.pow_succ' (m := 256), Nat.mod_mul (a := 256)]

theorem two_pow_width_le (p : Port) : 2 ^ p.width ≤ 256 ^ p.byteCount := by cases p <;> decide

/-- A number that fits the format is accepted from its bytes. -/
theorem decodeBytes_bytesOfNat {p : Port} {w : Nat} (hw : w < 2 ^ p.width) (side : CfgPorts) :
    decodeBytes p (bytesOfNat p.byteCount w) side = .ok (decode (frameOfNat p w side)) := by
  have hval : natOfBytes (bytesOfNat p.byteCount w) = w := by
    rw [natOfBytes_bytesOfNat, Nat.mod_eq_of_lt (hw.trans_le (two_pow_width_le p))]
  have hframe : frameOfBytes p (bytesOfNat p.byteCount w) side = .ok (frameOfNat p w side) := by
    rw [frameOfBytes, if_neg (not_not.2 (length_bytesOfNat _ w)), hval, if_neg (Nat.not_le.2 hw)]
  rw [decodeBytes, hframe]

section FramesOfNumbers
variable (side : CfgPorts)

theorem frameOfNat_cw37 (w : CmdWord) : frameOfNat .cw37 w.toNat side = .command w side := by
  rw [frameOfNat, BitVec.ofNat_toNat, BitVec.setWidth_eq]

theorem frameOfNat_ctr2 (c : CellCtl) : frameOfNat .ctr2 c.toNat side = .counter c := by
  rw [frameOfNat, BitVec.ofNat_toNat, BitVec.setWidth_eq]

theorem frameOfNat_hr2 (c : CellCtl) : frameOfNat .hr2 c.toNat side = .history c := by
  rw [frameOfNat, BitVec.ofNat_toNat, BitVec.setWidth_eq]

end FramesOfNumbers

/-- Settles O6: a word's number fits its format, and the frame of that number carries the word. -/
theorem wordsInTheirBytesDecodeAsTheWord : Obligations.WordsInTheirBytesDecodeAsTheWord :=
  ⟨fun w side => (decodeBytes_bytesOfNat (p := .cw37) w.isLt side).trans (by rw [frameOfNat_cw37, decode]),
    fun c side => (decodeBytes_bytesOfNat (p := .ctr2) c.isLt side).trans (by rw [frameOfNat_ctr2, decode]),
    fun c side => (decodeBytes_bytesOfNat (p := .hr2) c.isLt side).trans (by rw [frameOfNat_hr2, decode])⟩

end Sys2Proof

/-! How a step runs (R279, R283), one equation per kind of input, and the invariant of the block (R41, R245, R272): each
named update keeps it or restores it. -/
namespace Sys2Proof.Machine

section Cycles
variable {s : State} {rest : List Input}

theorem step_of_nil (hinputs : s.inputs = []) : step s = .next (idleCycle [] s) := by
  simp only [step, hinputs]

theorem step_of_idle (hinputs : s.inputs = .idle :: rest) : step s = .next (idleCycle rest s) := by
  simp only [step, hinputs]

theorem step_of_present {f : Frame} (hinputs : s.inputs = .present f :: rest) :
    step s = exec (decode f) (beginCycle rest s) := by
  simp only [step, hinputs]

theorem withFetchWord_of_tableFrame {nbits w : Nat} {f : Frame} (hframe : tableFrame nbits w = some f) :
    s.withFetchWord nbits w = presentFirst (.present f) s := by
  simp only [State.withFetchWord, hframe]

end Cycles

/-! ### What keeps the invariant -/

section Invariant
variable {s t : State}

/-- The invariant does not speak of the stand-alone cell, the response, the inputs or the counter of free values. -/
theorem BlockInv.of_same_storage (hs : BlockInv s) (hlife : t.life = s.life) (hmode : t.mode = s.mode)
    (hcfg : t.cfg = s.cfg) (hscheme : t.scheme = s.scheme) (hhreg : t.hreg.Ok) (hinv : fsrInv t.fsr = false) :
    BlockInv t where
  legal h := by rw [hmode, hcfg]; exact hs.legal (hlife ▸ h)
  storage h := by rw [hmode, hcfg, hscheme]; exact hs.storage (hlife ▸ h)
  absent h := by rw [hscheme]; exact hs.absent (hlife ▸ h)
  hreg := hhreg
  inv_clear := hinv

/-- Outside READY nothing is asked of `mode` and `cfg`, so free values may stand there (R271). -/
theorem BlockInv.of_absent (hlife : t.life ≠ .ready) (hscheme : t.scheme = .absent) (hhreg : t.hreg.Ok)
    (hinv : fsrInv t.fsr = false) : BlockInv t where
  legal h := absurd h hlife
  storage h := absurd h hlife
  absent _ := hscheme
  hreg := hhreg
  inv_clear := hinv

/-- A READY state with storage of the configured shape. -/
theorem BlockInv.of_ready (hlife : t.life = .ready) (hlegal : cfgLegal t.mode t.cfg = true)
    (hscheme : t.scheme.Ok t.mode t.cfg) (hhreg : t.hreg.Ok) (hinv : fsrInv t.fsr = false) : BlockInv t where
  legal _ := hlegal
  storage _ := hscheme
  absent h := absurd hlife h
  hreg := hhreg
  inv_clear := hinv

theorem fsrInv_zero : fsrInv 0b000#3 = false := by decide

theorem HistReg.Ok.with_value {h : HistReg} (hh : h.Ok) {n : Nat} (hn : n < 2 ^ h.width) :
    HistReg.Ok ⟨h.width, n⟩ := ⟨hh.width_pos, hh.width_le, hn⟩

section Kept
variable (hs : BlockInv s)
include hs

theorem accept_keeps_inv (a : Option Outcome) : BlockInv (accept a s) :=
  hs.of_same_storage rfl rfl rfl rfl hs.hreg hs.inv_clear

theorem beginCycle_keeps_inv (rest : List Input) : BlockInv (beginCycle rest s) :=
  hs.of_same_storage rfl rfl rfl rfl hs.hreg hs.inv_clear

theorem raise_notReady_keeps_inv : BlockInv (raise .notReady s) :=
  hs.of_same_storage rfl rfl rfl rfl hs.hreg ((fsrInv_fsrSet_notReady _).trans hs.inv_clear)

theorem raise_configError_keeps_inv : BlockInv (raise .configError s) :=
  .of_absent (by simp) (raise_configError_scheme s) hs.hreg ((fsrInv_fsrSet_configError _).trans hs.inv_clear)

theorem release_keeps_inv : BlockInv (release s) :=
  .of_absent (by simp) (release_scheme s) hs.hreg hs.inv_clear

theorem hardReset_keeps_inv : BlockInv (hardReset s) :=
  .of_absent (by simp) (hardReset_scheme s) (hs.hreg.with_value (and_mask_lt _ _)) fsrInv_zero

theorem initialise_keeps_inv {m : Mode} {cfg : CfgRecord} (hcfg : cfgLegal m cfg = true) :
    BlockInv (initialise m cfg s) :=
  .of_ready rfl hcfg (freshScheme_ok m cfg) (hs.hreg.with_value (Nat.two_pow_pos _)) hs.inv_clear

theorem driveCell_keeps_inv (upd : Bool) (up : Outcome) : BlockInv (driveCell upd up s) :=
  hs.of_same_storage rfl rfl rfl rfl hs.hreg hs.inv_clear

theorem driveHist_keeps_inv (sh : Bool) (din : Outcome) : BlockInv (driveHist sh din s) :=
  hs.of_same_storage rfl rfl rfl rfl (hrCell_ok hs.hreg sh din) hs.inv_clear

/-- A trained storage has the configured shape again (R218). -/
theorem train_keeps_inv {pc : Pc} {o : Outcome} {sch : Scheme} (hlife : s.life = .ready)
    (htrain : schemeTrain s.mode s.cfg s.scheme pc o = .next sch) : BlockInv { s with scheme := sch } := by
  obtain ⟨sch', hsch', hok⟩ := schemeTrain_ok (hs.storage hlife) pc o
  obtain rfl : sch' = sch := by rw [htrain] at hsch'; cases hsch'; rfl
  exact .of_ready hlife (hs.legal hlife) hok hs.hreg hs.inv_clear

theorem exec_keeps_inv {i : Instr} (hexec : exec i s = .next t) : BlockInv t := by
  cases i with
  | init m cfg =>
    obtain ⟨-, rfl⟩ | ⟨-, hcfg, rfl⟩ | ⟨-, -, rfl⟩ := execInit_cases hexec
    · exact raise_notReady_keeps_inv hs
    · exact accept_keeps_inv (initialise_keeps_inv hs hcfg) none
    · exact raise_configError_keeps_inv hs
  | predict pc =>
    obtain ⟨-, p, -, rfl⟩ | ⟨-, rfl⟩ := execPredict_cases hexec
    · exact accept_keeps_inv hs (some p)
    · exact raise_notReady_keeps_inv hs
  | train pc o =>
    obtain ⟨hlife, sch, htrain, rfl⟩ | ⟨-, rfl⟩ := execTrain_cases hexec
    · exact accept_keeps_inv (train_keeps_inv hs hlife htrain) none
    · exact raise_notReady_keeps_inv hs
  | cleanup =>
    obtain ⟨-, rfl⟩ | ⟨-, rfl⟩ := execCleanup_cases hexec
    · exact accept_keeps_inv (release_keeps_inv hs) none
    · exact accept_keeps_inv hs none
  | ctrHold | ctrDec | ctrInc => cases hexec; exact driveCell_keeps_inv hs _ _
  | hrHold | hrShift0 | hrShift1 => cases hexec; exact driveHist_keeps_inv hs _ _

end Kept

/-! ### Progress -/

theorem exec_init_of_legal {m : Mode} {cfg : CfgRecord} (hlife : s.life ≠ .faulted) (hcfg : cfgLegal m cfg = true) :
    exec (.init m cfg) s = .next (accept none (initialise m cfg s)) := by
  simp only [exec, execInit, hlife, hcfg, if_false, if_true]

/-- INIT answers from every state (R212, R213, R215). -/
theorem exec_init_answers (m : Mode) (cfg : CfgRecord) (s : State) : ∃ t, exec (.init m cfg) s = .next t := by
  by_cases hlife : s.life = .faulted
  · exact ⟨_, exec_init_of_faulted hlife⟩
  · cases hcfg : cfgLegal m cfg with
    | true => exact ⟨_, exec_init_of_legal hlife hcfg⟩
    | false => exact ⟨_, exec_init_of_illegal hlife hcfg⟩

/-- The one stop of an instruction is absent storage, which the invariant excludes (R272). -/
theorem exec_answers (hs : BlockInv s) (i : Instr) : ∃ t, exec i s = .next t := by
  cases i with
  | init m cfg => exact exec_init_answers m cfg s
  | predict pc =>
    by_cases hready : s.life = .ready
    · obtain ⟨p, hp⟩ := schemePredict_ok (hs.storage hready) pc
      exact ⟨_, exec_predict_of_ready hready hp⟩
    · exact ⟨_, exec_predict_of_not_ready hready pc⟩
  | train pc o =>
    by_cases hready : s.life = .ready
    · obtain ⟨sch, hsch, -⟩ := schemeTrain_ok (hs.storage hready) pc o
      exact ⟨_, exec_train_of_ready hready hsch⟩
    · exact ⟨_, exec_train_of_not_ready hready pc o⟩
  | cleanup =>
    by_cases hready : s.life = .ready
    · exact ⟨_, exec_cleanup_of_ready hready⟩
    · exact ⟨_, exec_cleanup_of_not_ready hready⟩
  | ctrHold | ctrDec | ctrInc | hrHold | hrShift0 | hrShift1 => exact ⟨_, rfl⟩

end Invariant

end Sys2Proof.Machine

namespace Sys2Proof
open Machine

/-- Settles O40: each of the three kinds of cycle keeps the invariant. -/
theorem everyStepKeepsTheInvariant : Obligations.EveryStepKeepsTheInvariant := by
  intro s t hs hstep
  obtain ⟨rest, -, rfl⟩ | ⟨rest, -, rfl⟩ | ⟨f, rest, -, hexec⟩ := step_cases hstep
  · exact beginCycle_keeps_inv hs rest
  · exact hardReset_keeps_inv (beginCycle_keeps_inv hs rest)
  · exact exec_keeps_inv (beginCycle_keeps_inv hs rest) hexec

/-- Settles O42: idle and reset cycles always answer, and an instruction does under the invariant. -/
theorem noStepStopsUnderTheInvariant : Obligations.NoStepStopsUnderTheInvariant := by
  intro s hs
  cases hinputs : s.inputs with
  | nil => exact ⟨_, step_of_nil hinputs⟩
  | cons i rest =>
    cases i with
    | idle => exact ⟨_, step_of_idle hinputs⟩
    | hardReset => exact ⟨_, step_of_hardReset hinputs⟩
    | present f =>
      rw [step_of_present hinputs]
      exact exec_answers (beginCycle_keeps_inv hs rest) (decode f)

/-- Settles O41: UNINIT has no storage, and the register of width 32 holds 0. -/
theorem resetMeetsTheInvariant : Obligations.ResetMeetsTheInvariant :=
  ⟨.of_absent (by decide) rfl ⟨by decide, by decide, by decide⟩ fsrInv_zero, rfl, rfl⟩

/-- Settles O18: the beginning of the cycle takes the input and clears the response. -/
theorem stepRunsTheDecodedInstruction : Obligations.StepRunsTheDecodedInstruction :=
  fun _ _ _ hinputs => step_of_present hinputs

/-- Settles O19: an empty list stays empty. -/
theorem idleCycleKeepsAllButThePorts : Obligations.IdleCycleKeepsAllButThePorts := by
  refine ⟨fun s hinputs => ?_, fun s rest hinputs => step_of_idle hinputs⟩
  rw [step_of_nil hinputs, idleCycle, beginCycle, ← hinputs]

/-- Settles O20: the word's frame is presented first, so the step decodes it and takes it off the inputs again. -/
theorem placedTableWordRunsNext : Obligations.PlacedTableWordRunsNext := by
  intro s nbits w i hdecode
  obtain ⟨f, hframe, rfl⟩ := Option.map_eq_some_iff.1 hdecode
  rw [withFetchWord_of_tableFrame hframe, step_of_present (presentFirst_inputs _ s)]
  rfl

end Sys2Proof

/-! The two primitive cells over sequences: a counter cell as saturating arithmetic on its number (R103, R108, R109), and a
history register as the window of the last outcomes (R120). -/
namespace Sys2Proof.Machine

/-! ### The counter cell -/

theorem exec_ctrDec (s : State) : exec .ctrDec s = .next { s with cell := ctrNext s.cell .notTaken } := rfl

theorem exec_ctrInc (s : State) : exec .ctrInc s = .next { s with cell := ctrNext s.cell .taken } := rfl

theorem ctrBits_ctrNext_taken (q : CtrState) :
    (ctrBits (ctrNext q .taken)).toNat = min ((ctrBits q).toNat + 1) 3 := by cases q <;> rfl

theorem ctrBits_ctrNext_notTaken (q : CtrState) :
    (ctrBits (ctrNext q .notTaken)).toNat = (ctrBits q).toNat - 1 := by cases q <;> rfl

theorem ctrBits_le_three (q : CtrState) : (ctrBits q).toNat ≤ 3 := Nat.le_of_lt_succ (ctrBits q).isLt

/-- R109 (c): one outcome keeps the order of two cells. -/
theorem ctrNext_mono {q q' : CtrState} (h : (ctrBits q).toNat ≤ (ctrBits q').toNat) (o : Outcome) :
    (ctrBits (ctrNext q o)).toNat ≤ (ctrBits (ctrNext q' o)).toNat := by
  cases o with
  | taken => rw [ctrBits_ctrNext_taken, ctrBits_ctrNext_taken]; omega
  | notTaken => rw [ctrBits_ctrNext_notTaken, ctrBits_ctrNext_notTaken]; omega

theorem foldl_ctrNext_mono (os : List Outcome) {q q' : CtrState} (h : (ctrBits q).toNat ≤ (ctrBits q').toNat) :
    (ctrBits (os.foldl ctrNext q)).toNat ≤ (ctrBits (os.foldl ctrNext q')).toNat := by
  induction os generalizing q q' with
  | nil => exact h
  | cons o os ih => exact ih (ctrNext_mono h o)

/-- R109 (d): `n` times Taken moves a cell up by `n` and clamps it at ST. -/
theorem foldl_replicate_taken (n : Nat) (q : CtrState) :
    (ctrBits ((List.replicate n .taken).foldl ctrNext q)).toNat = min ((ctrBits q).toNat + n) 3 := by
  induction n generalizing q with
  | zero => exact (Nat.min_eq_left (ctrBits_le_three q)).symm
  | succ n ih =>
    rw [List.replicate_succ, List.foldl_cons, ih, ctrBits_ctrNext_taken]
    omega

/-- R109 (d): `n` times NotTaken moves a cell down by `n` and clamps it at SN. -/
theorem foldl_replicate_notTaken (n : Nat) (q : CtrState) :
    (ctrBits ((List.replicate n .notTaken).foldl ctrNext q)).toNat = (ctrBits q).toNat - n := by
  induction n generalizing q with
  | zero => rfl
  | succ n ih =>
    rw [List.replicate_succ, List.foldl_cons, ih, ctrBits_ctrNext_notTaken]
    omega

/-- R109 (e): two equal outcomes decide the prediction. -/
theorem ctrPred_ctrNext_twice (q : CtrState) (o : Outcome) : ctrPred (ctrNext (ctrNext q o) o) = o := by
  cases o <;> cases q <;> rfl

/-! ### The history register -/

theorem exec_hrShift0 (s : State) :
    exec .hrShift0 s = .next { s with hreg := ⟨s.hreg.width, hrShift s.hreg.width s.hreg.value .notTaken⟩ } := rfl

theorem exec_hrShift1 (s : State) :
    exec .hrShift1 s = .next { s with hreg := ⟨s.hreg.width, hrShift s.hreg.width s.hreg.value .taken⟩ } := rfl

/-- R120: bit `i` below `W` is the outcome `i + 1` places from the end of the sequence. -/
theorem testBit_foldl_hrShift {w i : Nat} (hi : i < w) (os : List Outcome) :
    (os.foldl (hrShift w) 0).testBit i =
      if i < os.length then decide (os[os.length - 1 - i]? = some .taken) else false := by
  induction os using List.reverseRecOn generalizing i with
  | nil => simp
  | append_singleton os o ih =>
    rw [List.foldl_append, List.foldl_cons, List.foldl_nil]
    cases i with
    | zero => simp [testBit_hrShift_zero hi]
    | succ i =>
      rw [testBit_hrShift_succ hi, ih (Nat.lt_of_succ_lt hi)]
      by_cases hlen : i < os.length
      · have hlast : os.length - 1 - i < os.length := by omega
        have hindex : os.length - (i + 1) = os.length - 1 - i := by omega
        simp [hlen, hindex, List.getElem?_append_left hlast]
      · simp [hlen]

/-- R117 over a sequence: a register that starts below `2^W` stays below it. -/
theorem foldl_hrShift_lt {w h : Nat} (hh : h < 2 ^ w) (os : List Outcome) : os.foldl (hrShift w) h < 2 ^ w := by
  induction os generalizing h with
  | nil => exact hh
  | cons o os ih => exact ih (hrShift_lt w h o)

/-- The last `w` outcomes of a sequence that is at least that long, counted from its end. -/
theorem getElem?_from_end {w i : Nat} {os : List Outcome} (hi : i < w) (hlen : w ≤ os.length) :
    os[os.length - 1 - i]? = (os.drop (os.length - w))[w - 1 - i]? := by
  rw [List.getElem?_drop]
  congr 1
  omega

theorem foldl_hrShift_congr {w : Nat} {os os' : List Outcome} (hlen : w ≤ os.length) (hlen' : w ≤ os'.length)
    (hlast : os.drop (os.length - w) = os'.drop (os'.length - w)) :
    os.foldl (hrShift w) 0 = os'.foldl (hrShift w) 0 := by
  refine Nat.eq_of_testBit_eq fun i => ?_
  obtain hi | hi := Nat.lt_or_ge i w
  · rw [testBit_foldl_hrShift hi, testBit_foldl_hrShift hi, if_pos (hi.trans_le hlen), if_pos (hi.trans_le hlen'),
      getElem?_from_end hi hlen, getElem?_from_end hi hlen', hlast]
  · have hhigh (os : List Outcome) : (os.foldl (hrShift w) 0).testBit i = false :=
      Nat.testBit_lt_two_pow ((foldl_hrShift_lt (Nat.two_pow_pos w) os).trans_le
        (Nat.pow_le_pow_right Nat.two_pos hi))
    rw [hhigh, hhigh]

/-! ### Tables from their entries -/

section Entries
variable {α : Type} {d v : α} {l : List (Nat × α)} {i : Nat}

/-- In a rising list an entry that is listed is the one that is read. -/
theorem cellsRead_of_mem (hl : l.Pairwise fun a b => a.1 < b.1) (h : (i, v) ∈ l) : cellsRead d l i = v := by
  induction hl with
  | nil => cases h
  | @cons a rest ha hrest ih =>
    cases h with
    | head => exact if_pos rfl
    | tail _ h =>
      have hlt : a.1 < i := ha _ h
      exact (if_neg (Nat.ne_of_gt hlt)).trans (ih h)

/-- A canonical table lists exactly the entries that are read as something else than the INIT value. -/
theorem Table.mem_cells_iff {t : Table α} (ht : t.wf d) : (i, v) ∈ t.cells ↔ t.read d i = v ∧ v ≠ d := by
  constructor
  · exact fun h => ⟨cellsRead_of_mem ht.1 h, (ht.2 _ h).1⟩
  · rintro ⟨rfl, hv⟩
    exact mem_of_cellsRead_ne hv

/-- Two rising lists with the same members are the same list. -/
theorem cells_eq_of_mem_iff {l' : List (Nat × α)} (hl : l.Pairwise fun a b => a.1 < b.1)
    (hl' : l'.Pairwise fun a b => a.1 < b.1) (h : ∀ e, e ∈ l ↔ e ∈ l') : l = l' := by
  have hnodup {k : List (Nat × α)} (hk : k.Pairwise fun a b => a.1 < b.1) : k.Nodup :=
    hk.imp fun hlt heq => absurd (congrArg Prod.fst heq) (Nat.ne_of_lt hlt)
  refine List.Perm.eq_of_pairwise (fun a b _ _ hab hba => ?_) hl hl'
    ((List.perm_ext_iff_of_nodup (hnodup hl) (hnodup hl')).2 h)
  exact absurd hab (Nat.lt_asymm hba)

/-- A canonical table is known by its size and its entries. -/
theorem Table.ext_of_read {t t' : Table α} (ht : t.wf d) (ht' : t'.wf d) (hsize : t.size = t'.size)
    (hread : ∀ i, t.read d i = t'.read d i) : t = t' := by
  have hcells : t.cells = t'.cells := cells_eq_of_mem_iff ht.1 ht'.1 fun (i, v) => by
    rw [Table.mem_cells_iff ht, Table.mem_cells_iff ht', hread]
  cases t; cases t'
  exact congr (congrArg Table.mk hsize) hcells

end Entries

end Sys2Proof.Machine

namespace Sys2Proof
open Machine

/-- Settles O8: DEC and INC are `ctrNext` on the stand-alone cell, and HOLD writes back what it read. -/
theorem counterControlsFollowTheTransitionTable : Obligations.CounterControlsFollowTheTransitionTable := by
  intro s
  rw [exec_ctrDec, exec_ctrInc]
  refine ⟨rfl, ?_, ?_⟩ <;> cases s.cell <;> rfl

/-- Settles O9: the arithmetic is known from the cell's number; the four equations of R108 are checked state by state. -/
theorem counterTransitionIsSaturatingArithmetic : Obligations.CounterTransitionIsSaturatingArithmetic := by
  refine fun q => ⟨⟨ctrBits_ctrNext_taken q, ctrBits_ctrNext_notTaken q⟩, ?equations⟩
  case equations => cases q <;> decide

/-- Settles O11: order and clamping by induction on the outcomes, hysteresis from the table. -/
theorem counterSequencesAreMonotoneAndClamp : Obligations.CounterSequencesAreMonotoneAndClamp :=
  ⟨fun os _ _ h => foldl_ctrNext_mono os h, fun n q => ⟨foldl_replicate_taken n q, foldl_replicate_notTaken n q⟩,
    ctrPred_ctrNext_twice, rfl, rfl, rfl⟩

/-- Settles O13: SHIFT0 and SHIFT1 are `hrShift` on the stand-alone register. -/
theorem historyControlsHoldOrShift : Obligations.HistoryControlsHoldOrShift := by
  intro s
  rw [exec_hrShift0, exec_hrShift1, hrShift_eq_mod, hrShift_eq_mod]
  exact ⟨rfl, rfl, rfl⟩

/-- Settles O14: the bits of a register that started at 0 are the last outcomes, and nothing else. -/
theorem historyHoldsTheLastOutcomes : Obligations.HistoryHoldsTheLastOutcomes :=
  ⟨fun _ os _ hi => testBit_foldl_hrShift hi os, fun _ _ _ => foldl_hrShift_congr⟩

/-- Settles O16: one lemma for tables of any entry type. -/
theorem equalEntriesMakeEqualTables : Obligations.EqualEntriesMakeEqualTables :=
  ⟨fun _ _ => Table.ext_of_read, fun _ _ => Table.ext_of_read⟩

end Sys2Proof

/-! The facade once more (spec/45_facade.md): what INIT leaves and what a command may write, which low bits of the pc reach
an index (R71), and the stop where there is no storage. -/
namespace Sys2Proof.Machine

/-! ### INIT's components -/

/-- Component `c` of what INIT makes is `freshComp` of that number (R36, R37). -/
theorem freshComps_getElem? {cfg : CfgRecord} {c : Nat} {k : TagComp} (h : (freshComps cfg)[c]? = some k) :
    k = freshComp cfg c := by
  have hc : c < cfg.tageCompNum := by
    obtain ⟨hlen, -⟩ := List.getElem?_eq_some_iff.1 h
    simpa [freshComps] using hlen
  rw [freshComps, List.getElem?_map, List.getElem?_range hc] at h
  exact (Option.some.inj h).symm

theorem length_freshComps (cfg : CfgRecord) : (freshComps cfg).length = cfg.tageCompNum := by
  rw [freshComps, List.length_map, List.length_range]

/-! ### The pc's low bits -/

section Alias
variable {cfg : CfgRecord} {pc pc' : Pc}

section XP
variable {k : Nat} (hpc : pc.toNat % 2 ^ k = pc'.toNat % 2 ^ k)
include hpc

theorem xpPredict_congr (x : XP) : xpPredict k x pc = xpPredict k x pc' := by
  rw [xpPredict, xpIndex_congr hpc rfl, xpPredict]

theorem xpTrain_congr (x : XP) (o : Outcome) : xpTrain k x pc o = xpTrain k x pc' o := by
  simp only [xpTrain, xpIndex_congr (h := x.hist) hpc rfl]

theorem localIndex_congr : localIndex pc k = localIndex pc' k := by
  rw [localIndex, and_mask, hpc, ← and_mask, localIndex]

end XP

section Tournament
variable (hglobal : pc.toNat % 2 ^ cfg.tourHBits = pc'.toNat % 2 ^ cfg.tourHBits)
  (hlocal : pc.toNat % 2 ^ cfg.tourPcBits = pc'.toNat % 2 ^ cfg.tourPcBits) (t : TournamentState)

include hlocal in
theorem trPattern_congr : trPattern cfg t pc = trPattern cfg t pc' := by
  rw [trPattern, localIndex_congr hlocal, trPattern]

include hlocal in
theorem trLocalPred_congr : trLocalPred cfg t pc = trLocalPred cfg t pc' := by
  rw [trLocalPred, trPattern_congr hlocal, trLocalPred]

include hglobal in
theorem trGlobalPred_congr : trGlobalPred cfg t pc = trGlobalPred cfg t pc' := xpPredict_congr hglobal t.global

include hglobal hlocal

theorem trPredict_congr : trPredict cfg t pc = trPredict cfg t pc' := by
  rw [trPredict, trLocalPred_congr hlocal, trGlobalPred_congr hglobal, trPredict]

theorem trTrain_congr (o : Outcome) : trTrain cfg t pc o = trTrain cfg t pc' o := by
  simp only [trTrain, localIndex_congr hlocal, trPattern_congr hlocal t, trLocalPred_congr hlocal t,
    trGlobalPred_congr hglobal t, xpTrain_congr hglobal]

end Tournament

end Alias

/-! ### The multiplexer, per mode -/

section Multiplexer
variable {s : State} {cfg : CfgRecord} {sch : Scheme} {pc pc' : Pc} (o : Outcome)

/-- What an event does with the storage depends on the pc through `schemePredict` and `schemeTrain` only. -/
theorem exec_events_congr
    (h : schemePredict s.mode s.cfg s.scheme pc = schemePredict s.mode s.cfg s.scheme pc' ∧
      schemeTrain s.mode s.cfg s.scheme pc o = schemeTrain s.mode s.cfg s.scheme pc' o) :
    exec (.predict pc) s = exec (.predict pc') s ∧ exec (.train pc o) s = exec (.train pc' o) s := by
  obtain ⟨hpredict, htrain⟩ := h
  simp only [exec, execPredict, execTrain, hpredict, htrain, and_self]

/-- R219, R220: Static mode does not look at the pc. -/
theorem scheme_congr_static :
    schemePredict .static cfg sch pc = schemePredict .static cfg sch pc' ∧
      schemeTrain .static cfg sch pc o = schemeTrain .static cfg sch pc' o := by
  cases sch with
  | absent | static | gshare | tournament | custom => exact ⟨rfl, rfl⟩

theorem scheme_congr_gshare (hpc : pc.toNat % 2 ^ cfg.ghBits = pc'.toNat % 2 ^ cfg.ghBits) :
    schemePredict .gshare cfg sch pc = schemePredict .gshare cfg sch pc' ∧
      schemeTrain .gshare cfg sch pc o = schemeTrain .gshare cfg sch pc' o := by
  cases sch with
  | gshare x =>
    simp only [schemePredict, schemeTrain, gsPredict, gsTrain, xpPredict_congr hpc, xpTrain_congr hpc, and_self]
  | absent | static | tournament | custom => exact ⟨rfl, rfl⟩

theorem scheme_congr_tournament (hglobal : pc.toNat % 2 ^ cfg.tourHBits = pc'.toNat % 2 ^ cfg.tourHBits)
    (hlocal : pc.toNat % 2 ^ cfg.tourPcBits = pc'.toNat % 2 ^ cfg.tourPcBits) :
    schemePredict .tournament cfg sch pc = schemePredict .tournament cfg sch pc' ∧
      schemeTrain .tournament cfg sch pc o = schemeTrain .tournament cfg sch pc' o := by
  cases sch with
  | tournament t =>
    simp only [schemePredict, schemeTrain, trPredict_congr hglobal hlocal, trTrain_congr hglobal hlocal, and_self]
  | absent | static | gshare | custom => exact ⟨rfl, rfl⟩

theorem scheme_congr_custom (hpc : pc.toNat % 2 ^ cfg.ghBits = pc'.toNat % 2 ^ cfg.ghBits) :
    schemePredict .custom cfg sch pc = schemePredict .custom cfg sch pc' ∧
      schemeTrain .custom cfg sch pc o = schemeTrain .custom cfg sch pc' o := by
  cases sch with
  | custom u =>
    simp only [schemePredict, schemeTrain, cuPredict, cuTrain, xpPredict_congr hpc, xpTrain_congr hpc, and_self]
  | absent | static | gshare | tournament => exact ⟨rfl, rfl⟩

/-- The storage is that of the mode (R20). -/
def HasStorage (m : Mode) (sch : Scheme) : Prop :=
  match m with
  | .static => sch = .static
  | .gshare => ∃ x, sch = .gshare x
  | .tournament => ∃ t, sch = .tournament t
  | .custom => ∃ u, sch = .custom u

/-- R272: without the mode's storage there is nothing to predict from and nothing to train. -/
theorem scheme_of_not_hasStorage {m : Mode} (h : ¬ HasStorage m sch) (cfg : CfgRecord) (pc : Pc) :
    schemePredict m cfg sch pc = .fault .storageAbsent ∧ schemeTrain m cfg sch pc o = .fault .storageAbsent := by
  cases m with
  | static =>
    cases sch with
    | static => exact absurd rfl h
    | absent | gshare | tournament | custom => exact ⟨rfl, rfl⟩
  | gshare =>
    cases sch with
    | gshare x => exact absurd ⟨x, rfl⟩ h
    | absent | static | tournament | custom => exact ⟨rfl, rfl⟩
  | tournament =>
    cases sch with
    | tournament t => exact absurd ⟨t, rfl⟩ h
    | absent | static | gshare | custom => exact ⟨rfl, rfl⟩
  | custom =>
    cases sch with
    | custom u => exact absurd ⟨u, rfl⟩ h
    | absent | static | gshare | tournament => exact ⟨rfl, rfl⟩

end Multiplexer

/-! ### What a command may write -/

section Writers
variable {s t : State} {m : Mode} {cfg : CfgRecord} {pc : Pc} {o : Outcome}

theorem exec_init_inputs (h : exec (.init m cfg) s = .next t) : t.inputs = s.inputs := by
  obtain ⟨-, rfl⟩ | ⟨-, -, rfl⟩ | ⟨-, -, rfl⟩ := execInit_cases h
  · exact raise_inputs _ s
  · rw [accept_inputs, initialise_inputs]
  · exact raise_inputs _ s

theorem exec_predict_frame (h : exec (.predict pc) s = .next t) : ∃ f r, t = { s with fsr := f, rsp := r } := by
  obtain ⟨-, p, -, rfl⟩ | ⟨-, rfl⟩ := execPredict_cases h
  · exact ⟨s.fsr, _, rfl⟩
  · exact ⟨_, _, raise_notReady s⟩

theorem exec_train_frame (h : exec (.train pc o) s = .next t) :
    ∃ f sch r, t = { s with fsr := f, scheme := sch, rsp := r } := by
  obtain ⟨-, sch, -, rfl⟩ | ⟨-, rfl⟩ := execTrain_cases h
  · exact ⟨s.fsr, sch, _, rfl⟩
  · exact ⟨_, s.scheme, _, raise_notReady s⟩

theorem exec_cleanup_frame (h : exec .cleanup s = .next t) :
    ∃ l m c sch r n, t = { s with life := l, mode := m, cfg := c, scheme := sch, rsp := r, free := n } := by
  obtain ⟨-, rfl⟩ | ⟨-, rfl⟩ := execCleanup_cases h
  · exact ⟨_, _, _, _, _, _, rfl⟩
  · exact ⟨s.life, s.mode, s.cfg, s.scheme, _, s.free, rfl⟩

end Writers

/-! ### What a command returns -/

/-- The response of a command and the bit of `fsr` that goes with it (R90, R241). -/
def Answers (i : Instr) (s t : State) : Prop :=
  ∃ r, t.rsp = some r ∧
    (r.fault = .none ∧ t.fsr = s.fsr ∨ r.fault = .configError ∧ t.fsr = s.fsr ||| 0b001#3 ∨
      r.fault = .notReady ∧ t.fsr = s.fsr ||| 0b010#3) ∧
    (r.taken ≠ none ↔ r.fault = .none ∧ ∃ pc, i = .predict pc)

section Returns
variable {i : Instr} {s u : State}

theorem accept_answers {a : Option Outcome} (hfsr : u.fsr = s.fsr) (ha : a ≠ none ↔ ∃ pc, i = .predict pc) :
    Answers i s (accept a u) :=
  ⟨⟨.none, a⟩, rfl, .inl ⟨rfl, hfsr⟩, ha.trans (and_iff_right rfl).symm⟩

/-- A command that was rejected returns no prediction. -/
theorem raise_notReady_answers (i : Instr) (s : State) : Answers i s (raise .notReady s) :=
  ⟨⟨.notReady, none⟩, rfl, .inr (.inr ⟨rfl, rfl⟩), fun h => absurd rfl h, fun h => absurd h.1 (by decide)⟩

theorem raise_configError_answers (i : Instr) (s : State) : Answers i s (raise .configError s) :=
  ⟨⟨.configError, none⟩, rfl, .inr (.inl ⟨rfl, rfl⟩), fun h => absurd rfl h, fun h => absurd h.1 (by decide)⟩

end Returns

end Sys2Proof.Machine

namespace Sys2Proof
open Machine

/-- Settles O22: the next state is that of `initialise`, and a fresh table reads its INIT value everywhere. -/
theorem acceptedInitLeavesFreshStorage : Obligations.AcceptedInitLeavesFreshStorage := by
  intro m cfg s hlife hcfg
  refine ⟨_, exec_init_of_legal hlife hcfg, rfl, rfl, rfl, rfl, rfl, rfl, ?static, ?gshare, ?tournament, ?custom⟩
  case static => rintro rfl; rfl
  case gshare => rintro rfl; exact ⟨_, rfl, rfl, fun _ => Table.read_fresh _, rfl⟩
  case tournament =>
    rintro rfl
    exact ⟨_, rfl, rfl, fun _ => Table.read_fresh _, rfl, rfl, fun _ => Table.read_fresh _, rfl,
      fun _ => Table.read_fresh _, rfl, fun _ => Table.read_fresh _⟩
  case custom =>
    rintro rfl
    refine ⟨_, rfl, rfl, fun _ => Table.read_fresh _, rfl, length_freshComps cfg, fun c k hk => ?_⟩
    rw [freshComps_getElem? hk]
    exact ⟨rfl, fun _ => Table.read_fresh _, ⟨rfl, rfl, rfl⟩, ⟨rfl, rfl, rfl⟩, ⟨rfl, rfl, rfl⟩⟩

/-- Settles O23: an accepted INIT ends READY, a rejected one FAULTED. -/
theorem initInitialisesTheStandAloneCells : Obligations.InitInitialisesTheStandAloneCells := by
  intro m cfg s t hexec
  obtain ⟨hlife, rfl⟩ | ⟨-, -, rfl⟩ | ⟨-, -, rfl⟩ := execInit_cases hexec
  · have hnot : (raise .notReady s).life ≠ .ready := by rw [raise_life, lifeAfterFault_notReady, hlife]; decide
    exact ⟨fun h => absurd h hnot, fun _ => ⟨rfl, rfl⟩⟩
  · exact ⟨fun _ => ⟨rfl, rfl⟩, fun h => by cases h⟩
  · exact ⟨fun h => (by cases h), fun _ => ⟨rfl, rfl⟩⟩

/-- Settles O33: mode by mode, from the index formulas. -/
theorem pcsThatAliasAreIndistinguishable : Obligations.PcsThatAliasAreIndistinguishable := by
  intro s pc pc' o halias
  apply exec_events_congr
  cases hmode : s.mode with
  | static => exact scheme_congr_static o
  | gshare => rw [hmode] at halias; exact scheme_congr_gshare o halias
  | tournament => rw [hmode] at halias; exact scheme_congr_tournament o halias.1 halias.2
  | custom => rw [hmode] at halias; exact scheme_congr_custom o halias

/-- Settles O34: the four hypotheses say that the mode's storage is not there. -/
theorem predictAndTrainWithoutStorageStop : Obligations.PredictAndTrainWithoutStorageStop := by
  intro s pc o hlife hstatic hgshare htournament hcustom
  have hnone : ¬ HasStorage s.mode s.scheme := by
    cases hmode : s.mode with
    | static => exact hstatic hmode
    | gshare => exact not_exists.2 (hgshare hmode)
    | tournament => exact not_exists.2 (htournament hmode)
    | custom => exact not_exists.2 (hcustom hmode)
  obtain ⟨hpredict, htrain⟩ := scheme_of_not_hasStorage o hnone s.cfg pc
  simp only [exec, execPredict, execTrain, hlife, hpredict, htrain, if_true, and_self]

/-- Settles O36: `raise` and `release` leave the stand-alone cells alone. -/
theorem unspecifiedStorageIsAbsentAndCellsStay : Obligations.UnspecifiedStorageIsAbsentAndCellsStay := by
  refine ⟨fun m cfg s t hlife hcfg hexec => ?configError, fun s t hlife hexec => ?cleanup⟩
  case configError =>
    rw [exec_init_of_illegal hlife hcfg] at hexec
    cases hexec
    exact ⟨raise_configError_scheme s, raise_cell _ s, raise_hreg _ s⟩
  case cleanup =>
    rw [exec_cleanup_of_ready hlife] at hexec
    cases hexec
    exact ⟨release_scheme s, release_cell s, release_hreg s⟩

/-- Settles O38: the frame of each instruction leaves only the registers that the instruction is named for. -/
theorem eachRegisterHasItsOwnWriters : Obligations.EachRegisterHasItsOwnWriters := by
  intro i s t hexec
  cases i with
  | init m cfg => simp [exec_init_inputs hexec]
  | predict pc =>
    obtain ⟨f, r, rfl⟩ := exec_predict_frame hexec
    simp
  | train pc o =>
    obtain ⟨f, sch, r, rfl⟩ := exec_train_frame hexec
    simp
  | cleanup =>
    obtain ⟨l, m, c, sch, r, n, rfl⟩ := exec_cleanup_frame hexec
    simp
  | ctrHold => cases hexec; simp [ctrCell]
  | ctrDec | ctrInc => cases hexec; simp
  | hrHold => cases hexec; simp [hrCell]
  | hrShift0 | hrShift1 => cases hexec; simp

/-- Settles O39: a command is accepted with its own kind of response or rejected by one of the two faults; a cell control
is no command. -/
theorem responsesAndStickyBitsAgree : Obligations.ResponsesAndStickyBitsAgree := by
  intro i s t hport hexec
  cases i with
  | init m cfg =>
    obtain ⟨-, rfl⟩ | ⟨-, -, rfl⟩ | ⟨-, -, rfl⟩ := execInit_cases hexec
    · exact raise_notReady_answers _ s
    · exact accept_answers (initialise_fsr m cfg s) (by simp)
    · exact raise_configError_answers _ s
  | predict pc =>
    obtain ⟨-, p, -, rfl⟩ | ⟨-, rfl⟩ := execPredict_cases hexec
    · exact accept_answers rfl (by simp)
    · exact raise_notReady_answers _ s
  | train pc o =>
    obtain ⟨-, sch, -, rfl⟩ | ⟨-, rfl⟩ := execTrain_cases hexec
    · exact accept_answers rfl (by simp)
    · exact raise_notReady_answers _ s
  | cleanup =>
    obtain ⟨-, rfl⟩ | ⟨-, rfl⟩ := execCleanup_cases hexec
    · exact accept_answers (release_fsr s) (by simp)
    · exact accept_answers rfl (by simp)
  | ctrHold | ctrDec | ctrInc | hrHold | hrShift0 | hrShift1 => cases hport

end Sys2Proof

/-! Runs of instructions (R282): two blocks that are kept in step by every event answer whole runs alike. With it, Custom
mode against Gshare (R185), determinism after INIT (R16), the sequence of R166, and PREDICTs before a TRAIN (R277). -/
namespace Sys2Proof.Machine

section Runs
variable {i : Instr} {is : List Instr} {rs : List (Option Response)} {s t u : State}

theorem runInstrs_cons_of_next (hexec : exec i s = .next t) (hrun : runInstrs is t = some (rs, u)) :
    runInstrs (i :: is) s = some (t.rsp :: rs, u) := by
  simp only [runInstrs, hexec, hrun, Option.map_some]

/-- A relation on blocks that every event keeps, with equal responses, is kept by every run of events. -/
theorem runInstrs_agree {R : State → State → Prop}
    (hstep : ∀ i s s', isEvent i = true → R s s' →
      ∃ t t', exec i s = .next t ∧ exec i s' = .next t' ∧ t.rsp = t'.rsp ∧ R t t')
    {s' : State} (hevents : ∀ i ∈ is, isEvent i = true) (hR : R s s') :
    ∃ rs t t', runInstrs is s = some (rs, t) ∧ runInstrs is s' = some (rs, t') ∧ R t t' := by
  induction is generalizing s s' with
  | nil => exact ⟨[], s, s', rfl, rfl, hR⟩
  | cons i is ih =>
    obtain ⟨hi, his⟩ := List.forall_mem_cons.1 hevents
    obtain ⟨t, t', hexec, hexec', hrsp, hR'⟩ := hstep i s s' hi hR
    obtain ⟨rs, u, u', hrun, hrun', hRu⟩ := ih his hR'
    exact ⟨t.rsp :: rs, u, u', runInstrs_cons_of_next hexec hrun,
      hrsp ▸ runInstrs_cons_of_next hexec' hrun', hRu⟩

/-- A run that begins with a legal INIT goes on from what INIT leaves (R212). -/
theorem runInstrs_init {m : Mode} {cfg : CfgRecord} (hlife : s.life ≠ .faulted) (hcfg : cfgLegal m cfg = true)
    (hrun : runInstrs is (accept none (initialise m cfg s)) = some (rs, t)) :
    runInstrs (.init m cfg :: is) s = some (some ⟨.none, none⟩ :: rs, t) :=
  runInstrs_cons_of_next (exec_init_of_legal hlife hcfg) hrun

end Runs

/-! ### Gshare and Custom in step -/

/-- READY Gshare and Custom blocks of the same width, with the same table and history (R185). -/
structure InStep (cs : List TagComp) (s s' : State) (x : XP) : Prop where
  gshare_ready : s.life = .ready
  gshare_mode : s.mode = .gshare
  gshare_scheme : s.scheme = .gshare x
  custom_ready : s'.life = .ready
  custom_mode : s'.mode = .custom
  custom_scheme : s'.scheme = .custom ⟨x, cs⟩
  width : s.cfg.ghBits = s'.cfg.ghBits

theorem accept_eq_of_scheme {s : State} {sch : Scheme} (h : s.scheme = sch) (a : Option Outcome) :
    accept a s = { s with scheme := sch, rsp := some ⟨.none, a⟩ } := by
  subst h
  rfl

section InStep
variable {cs : List TagComp} {s s' : State} {x : XP} (h : InStep cs s s' x)
include h

/-- Both modes read and train the same primitive at the same width. -/
theorem InStep.exec_event {i : Instr} (hi : isEvent i = true) :
    ∃ x' a, exec i s = .next { s with scheme := .gshare x', rsp := a } ∧
      exec i s' = .next { s' with scheme := .custom ⟨x', cs⟩, rsp := a } := by
  cases i with
  | predict pc =>
    have hgshare := exec_predict_of_ready h.gshare_ready (schemePredict_of_gshare h.gshare_mode h.gshare_scheme pc)
    have hcustom := exec_predict_of_ready h.custom_ready (schemePredict_of_custom h.custom_mode h.custom_scheme pc)
    rw [accept_eq_of_scheme h.gshare_scheme] at hgshare
    rw [accept_eq_of_scheme h.custom_scheme, ← h.width] at hcustom
    exact ⟨x, _, hgshare, hcustom⟩
  | train pc o =>
    have hgshare := exec_train_of_ready h.gshare_ready (schemeTrain_of_gshare h.gshare_mode h.gshare_scheme pc o)
    have hcustom := exec_train_of_ready h.custom_ready (schemeTrain_of_custom h.custom_mode h.custom_scheme pc o)
    rw [← h.width] at hcustom
    exact ⟨xpTrain s.cfg.ghBits x pc o, _, hgshare, hcustom⟩
  | init | cleanup | ctrHold | ctrDec | ctrInc | hrHold | hrShift0 | hrShift1 => cases hi

theorem InStep.update (x' : XP) (a : Option Response) :
    InStep cs { s with scheme := .gshare x', rsp := a } { s' with scheme := .custom ⟨x', cs⟩, rsp := a } x' :=
  ⟨h.gshare_ready, h.gshare_mode, rfl, h.custom_ready, h.custom_mode, rfl, h.width⟩

end InStep

theorem inStep_initialise {cfg cfg' : CfgRecord} (hwidth : cfg.ghBits = cfg'.ghBits) (s s' : State) :
    InStep (freshComps cfg') (accept none (initialise .gshare cfg s)) (accept none (initialise .custom cfg' s'))
      (freshXP cfg.ghBits) where
  gshare_ready := rfl
  gshare_mode := rfl
  gshare_scheme := rfl
  custom_ready := rfl
  custom_mode := rfl
  custom_scheme := by rw [hwidth]; rfl
  width := hwidth

/-! ### Blocks with the same registers and tables -/

/-- READY blocks that an event cannot tell apart. -/
structure SameTables (s s' : State) : Prop where
  ready : s.life = .ready
  life : s.life = s'.life
  mode : s.mode = s'.mode
  cfg : s.cfg = s'.cfg
  scheme : s.scheme = s'.scheme
  storage : s.scheme.Ok s.mode s.cfg

theorem SameTables.exec_event {s s' : State} (h : SameTables s s') {i : Instr} (hi : isEvent i = true) :
    ∃ t t', exec i s = .next t ∧ exec i s' = .next t' ∧ t.rsp = t'.rsp ∧ SameTables t t' := by
  have hready' : s'.life = .ready := h.life.symm.trans h.ready
  cases i with
  | predict pc =>
    obtain ⟨p, hp⟩ := schemePredict_ok h.storage pc
    have hp' : schemePredict s'.mode s'.cfg s'.scheme pc = .next p := by rw [← h.mode, ← h.cfg, ← h.scheme, hp]
    exact ⟨_, _, exec_predict_of_ready h.ready hp, exec_predict_of_ready hready' hp', rfl,
      h.ready, h.life, h.mode, h.cfg, h.scheme, h.storage⟩
  | train pc o =>
    obtain ⟨sch, hsch, hok⟩ := schemeTrain_ok h.storage pc o
    have hsch' : schemeTrain s'.mode s'.cfg s'.scheme pc o = .next sch := by
      rw [← h.mode, ← h.cfg, ← h.scheme, hsch]
    exact ⟨_, _, exec_train_of_ready h.ready hsch, exec_train_of_ready hready' hsch', rfl,
      h.ready, h.life, h.mode, h.cfg, rfl, hok⟩
  | init | cleanup | ctrHold | ctrDec | ctrInc | hrHold | hrShift0 | hrShift1 => cases hi

theorem sameTables_initialise (m : Mode) (cfg : CfgRecord) (s s' : State) :
    SameTables (accept none (initialise m cfg s)) (accept none (initialise m cfg s')) :=
  ⟨rfl, rfl, rfl, rfl, rfl, freshScheme_ok m cfg⟩

/-- Every cell of a fresh table is WN, which predicts NotTaken and selects the global side (R104, R105). -/
theorem schemePredict_freshScheme (m : Mode) (cfg : CfgRecord) (pc : Pc) :
    schemePredict m cfg (freshScheme m cfg) pc = .next (if m = .static then .taken else .notTaken) := by
  cases m with
  | static | gshare | tournament | custom => rfl

/-! ### Tournament under outcomes that are all NotTaken -/

/-- Both sub-predictors say NotTaken everywhere, and every choice cell is at its INIT value. -/
structure PredictsNotTaken (t : TournamentState) : Prop where
  global : ∀ i, ctrPred (ctrRead t.global.tbl i) = .notTaken
  pattern : ∀ i, ctrPred (ctrRead t.ptbl i) = .notTaken
  choice : ∀ i, ctrRead t.ctbl i = .wn

theorem ctrPred_ctrNext_notTaken {q : CtrState} (h : ctrPred q = .notTaken) :
    ctrPred (ctrNext q .notTaken) = .notTaken := by
  cases q with
  | sn | wn => rfl
  | wt | st => cases h

theorem trTrain_global (cfg : CfgRecord) (t : TournamentState) (pc : Pc) (o : Outcome) :
    (trTrain cfg t pc o).global = xpTrain cfg.tourHBits t.global pc o := rfl

section NotTaken
variable {t : TournamentState} (h : PredictsNotTaken t) (cfg : CfgRecord) (pc : Pc)
include h

theorem PredictsNotTaken.predict : trPredict cfg t pc = .notTaken := by
  rw [trPredict_eq_ite_global, if_pos (.inr (h.choice _))]
  exact h.global _

/-- The sub-predictions agree, so the choice cell does not move (R160), and the cells that move go down (R102). -/
theorem PredictsNotTaken.train : PredictsNotTaken (trTrain cfg t pc .notTaken) where
  global i := by
    rw [trTrain_global, xpTrain_read]
    split
    · exact ctrPred_ctrNext_notTaken (h.global i)
    · exact h.global i
  pattern i := by
    rw [ctrRead_trTrain_ptbl]
    split
    · exact ctrPred_ctrNext_notTaken (h.pattern i)
    · exact h.pattern i
  choice i := by
    have hagree : trGlobalPred cfg t pc = trLocalPred cfg t pc := (h.global _).trans (h.pattern _).symm
    refine (ctrRead_trTrainChoice t.ctbl _ i _ _ _).trans ?_
    rw [if_neg fun hmoves => hmoves.2 hagree, h.choice]

end NotTaken

theorem runInstrs_notTaken_branches (pcs : List Pc) {s : State} {r : TournamentState} (hlife : s.life = .ready)
    (hmode : s.mode = .tournament) (hscheme : s.scheme = .tournament r) (hr : PredictsNotTaken r) :
    ∃ t r', runInstrs (pcs.flatMap fun pc => Asm.branch pc .notTaken) s =
        some (pcs.flatMap (fun _ => [some ⟨.none, some .notTaken⟩, some ⟨.none, none⟩]), t) ∧
      t.scheme = .tournament r' ∧ PredictsNotTaken r' := by
  induction pcs generalizing s r with
  | nil => exact ⟨s, r, rfl, hscheme, hr⟩
  | cons pc pcs ih =>
    have hpredict := exec_predict_of_ready hlife (schemePredict_of_tournament hmode hscheme pc)
    rw [hr.predict] at hpredict
    have htrain : exec (.train pc .notTaken) (accept (some .notTaken) s) = _ :=
      exec_train_of_ready hlife (schemeTrain_of_tournament hmode hscheme pc .notTaken)
    obtain ⟨t, r', hrun, hscheme', hr'⟩ := ih (s := accept none { accept (some .notTaken) s with
      scheme := .tournament (trTrain s.cfg r pc .notTaken) }) hlife hmode rfl (hr.train s.cfg pc)
    exact ⟨t, r', runInstrs_cons_of_next hpredict (runInstrs_cons_of_next htrain hrun), hscheme', hr'⟩

/-! ### PREDICTs before a TRAIN -/

/-- TRAIN overwrites the response and reads the storage only. -/
theorem exec_train_accept (pc : Pc) (o : Outcome) (a : Option Outcome) (s : State) :
    exec (.train pc o) (accept a s) = exec (.train pc o) s := rfl

theorem runInstrs_predicts_then_train (pcs : List Pc) {pc : Pc} {o : Outcome} {s t : State} (hs : BlockInv s)
    (hlife : s.life = .ready) (htrain : exec (.train pc o) s = .next t) :
    ∃ rs, runInstrs (pcs.map Instr.predict ++ [.train pc o]) s = some (rs, t) ∧ rs.length = pcs.length + 1 := by
  induction pcs generalizing s with
  | nil => exact ⟨[t.rsp], runInstrs_cons_of_next htrain rfl, rfl⟩
  | cons pc' pcs ih =>
    obtain ⟨p, hp⟩ := schemePredict_ok (hs.storage hlife) pc'
    have hexec := exec_predict_of_ready hlife hp
    obtain ⟨rs, hrun, hlen⟩ := ih (accept_keeps_inv hs (some p)) hlife ((exec_train_accept ..).trans htrain)
    exact ⟨_, runInstrs_cons_of_next hexec hrun, congrArg (· + 1) hlen⟩

end Sys2Proof.Machine

namespace Sys2Proof
open Machine

/-- Settles O48: both modes read and train one XOR-indexed primitive. -/
theorem customEventSimulatesGshareEvent : Obligations.CustomEventSimulatesGshareEvent :=
  fun _ _ _ _ _ hi hlife hmode hscheme hlife' hmode' hscheme' hwidth =>
    InStep.exec_event ⟨hlife, hmode, hscheme, hlife', hmode', hscheme', hwidth⟩ hi

/-- Settles O45: INIT brings the two blocks in step, and every event keeps them so. -/
theorem customModeSimulatesGshare : Obligations.CustomModeSimulatesGshare := by
  intro cfg cfg' is s s' hlife hlife' hwidth hcfg hevents
  have hcfg' : cfgLegal .custom cfg' = true := by rw [cfgLegal, ← hwidth]; exact hcfg
  have hstep : ∀ i s s', isEvent i = true → (∃ x, InStep (freshComps cfg') s s' x) →
      ∃ t t', exec i s = .next t ∧ exec i s' = .next t' ∧ t.rsp = t'.rsp ∧
        ∃ x, InStep (freshComps cfg') t t' x := by
    rintro i s s' hi ⟨x, h⟩
    obtain ⟨x', a, hexec, hexec'⟩ := h.exec_event hi
    exact ⟨_, _, hexec, hexec', rfl, x', h.update x' a⟩
  obtain ⟨rs, t, t', hrun, hrun', x, h⟩ := runInstrs_agree hstep hevents ⟨_, inStep_initialise hwidth s s'⟩
  exact ⟨_, t, t', x, ⟨x, freshComps cfg'⟩, runInstrs_init hlife hcfg hrun, runInstrs_init hlife' hcfg' hrun',
    h.gshare_scheme, h.custom_scheme, rfl, rfl⟩

/-- Settles O44: INIT makes the two blocks the same where events look. -/
theorem runsFromInitForgetTheEarlierState : Obligations.RunsFromInitForgetTheEarlierState := by
  intro m cfg is s s' hlife hlife' hcfg hevents
  obtain ⟨rs, t, t', hrun, hrun', h⟩ :=
    runInstrs_agree (fun _ _ _ hi h => SameTables.exec_event h hi) hevents (sameTables_initialise m cfg s s')
  exact ⟨_, t, t', runInstrs_init hlife hcfg hrun, runInstrs_init hlife' hcfg hrun', h.life, h.mode, h.cfg, h.scheme⟩

/-- Settles O43: the storage that INIT made answers the PREDICT. -/
theorem firstPredictionAfterInit : Obligations.FirstPredictionAfterInit := by
  intro m cfg s pc hlife hcfg
  have hpredict := exec_predict_of_ready (s := accept none (initialise m cfg s)) rfl
    (schemePredict_freshScheme m cfg pc)
  exact ⟨_, runInstrs_init hlife hcfg (runInstrs_cons_of_next hpredict rfl)⟩

/-- Settles O46: fresh Tournament storage predicts NotTaken on both sides, and NotTaken branches keep it so. -/
theorem notTakenBranchesLeaveTheChoiceTableFresh : Obligations.NotTakenBranchesLeaveTheChoiceTableFresh := by
  intro cfg pcs s hlife hcfg
  obtain ⟨t, r, hrun, hscheme, hr⟩ := runInstrs_notTaken_branches pcs
    (s := accept none (initialise .tournament cfg s)) rfl rfl rfl ⟨fun _ => rfl, fun _ => rfl, fun _ => rfl⟩
  exact ⟨t, r, runInstrs_init hlife hcfg hrun, hscheme, hr.choice⟩

/-- Settles O47: each PREDICT changes the response alone, which the TRAIN overwrites. -/
theorem predictsBeforeTrainAreHarmless : Obligations.PredictsBeforeTrainAreHarmless := by
  intro pcs pc o s hs hlife
  obtain ⟨t, htrain⟩ := exec_answers hs (.train pc o)
  obtain ⟨rs, hrun, hlen⟩ := runInstrs_predicts_then_train pcs hs hlife htrain
  exact ⟨rs, t, hrun, hlen, htrain⟩

end Sys2Proof
